-- ==== Sys2Proof/Word.lean ====
section
/-! DEFINITION. The unit of the byte stream. -/

namespace Sys2Proof

/-- A byte: 8 bits, read as an unsigned integer (R9). -/
abbrev Byte := BitVec 8

end Sys2Proof
end

