-- ==== Sys2Proof/Config.lean ====
section
/-! DEFINITION. The literals of the source (R7, R8), which the rest of the model only names, the one parameter
`CNT_W`, and the free values the environment supplies where nothing is scheduled. The decode table, which
orders the fields, is `decodeTable` in Decode.lean. -/

namespace Sys2Proof.Config

/-- Header marker, frame offset 0 (R7, R51). -/
abbrev HDR : Byte := 0xA4#8

/-- Function code, frame offset 1, "read response" (R7, R51). -/
abbrev FUNC : Byte := 0x03#8

/-- Both `start` and `start + count` must be strictly below this (R7, R74). -/
abbrev REG_LIMIT : Nat := 0x2C

/-- Frame offset of the header (R51). -/
abbrev OFF_HDR : Nat := 0

/-- Frame offset of the function code (R51). -/
abbrev OFF_FUNC : Nat := 1

/-- Frame offset of the start register (R51). -/
abbrev OFF_START : Nat := 2

/-- Frame offset of the register count (R51). -/
abbrev OFF_COUNT : Nat := 3

/-- Frame offset of payload byte 0; the checksum stands behind the last payload byte (R51, R54). -/
abbrev OFF_PAY : Nat := 4

/-- Length of the shortest frame: header bytes and checksum (R7, R52). -/
abbrev MIN_LEN : Nat := OFF_PAY + 1

/-- Largest count of a frame, with start 0 (R7, R74). -/
abbrev MAX_COUNT : Nat := REG_LIMIT - 1

/-- Longest frame (R7, R53). -/
abbrev MAX_LEN : Nat := MAX_COUNT + MIN_LEN

/-- Depth of the window (R7, R95). -/
abbrev WIN_DEPTH : Nat := MAX_LEN

/-- Number of decoded fields (R7). -/
abbrev NFIELDS : Nat := 18

/-- Divisor of the integer fields (R7, R97). -/
abbrev DIV_RAW : Nat := 1

/-- Divisor of the angles and the temperature (R7, R97). -/
abbrev DIV_DEGREES : Nat := 100

/-- Divisor of the quaternion components (R7, R97). -/
abbrev DIV_UNIT : Nat := 10000

/-- Default of the parameter `CNT_W` (R7). -/
abbrev CNT_W : Nat := 16

/-- FREE VALUE (log 2): the control word of the `n`-th cycle for which nothing is scheduled. -/
opaque freeCw : Nat → BitVec 11

/-- FREE VALUE (log 2): the select input in such a cycle. -/
opaque freeSel : Nat → BitVec 5

/-- FREE VALUE (log 2): the link-down input in such a cycle. -/
opaque freeLink : Nat → Bool

end Sys2Proof.Config
end

