-- ==== Sys2Proof/Syntax.lean ====
section
/-! DEFINITION. The operations of FSYNC-DEC, one constructor per row of the opcode table, and the three
ports on which an encoding arrives (30_encoding.md). -/

namespace Sys2Proof

/-- What `classify` says of the candidate at the scan origin (R73). -/
inductive Verdict where
  | pending | valid | rejHdr | rejFunc | rejStart | rejCount | rejCsum
  deriving DecidableEq, Repr

/-- The operations (R6). The three rows of SEL_RSVD are three constructors; each carries the bits that
its row's mask leaves free. -/
inductive Instr where
  /-- R139. -/
  | reset
  /-- R85. -/
  | clear
  /-- R84. -/
  | accept
  /-- R79. -/
  | rejHdr
  /-- R80. -/
  | rejFunc
  /-- R81. -/
  | rejStart
  /-- R82. -/
  | rejCount
  /-- R83. -/
  | rejCsum
  /-- R77; the operand is `in_byte`. -/
  | push (b : Byte)
  /-- R86. -/
  | idle
  /-- R105. -/
  | fieldAccX
  /-- R106. -/
  | fieldAccY
  /-- R107. -/
  | fieldAccZ
  /-- R108. -/
  | fieldGyrX
  /-- R109. -/
  | fieldGyrY
  /-- R110. -/
  | fieldGyrZ
  /-- R111. -/
  | fieldRoll
  /-- R112. -/
  | fieldPitch
  /-- R113. -/
  | fieldYaw
  /-- R114. -/
  | fieldCalib
  /-- R115. -/
  | fieldTemp
  /-- R116. -/
  | fieldMagX
  /-- R117. -/
  | fieldMagY
  /-- R118. -/
  | fieldMagZ
  /-- R119. -/
  | fieldQ0
  /-- R120. -/
  | fieldQ1
  /-- R121. -/
  | fieldQ2
  /-- R122. -/
  | fieldQ3
  /-- R102, selects 18..19 (`1001x`). -/
  | selRsvd18 (lo : BitVec 1)
  /-- R102, selects 20..23 (`101xx`). -/
  | selRsvd20 (lo : BitVec 2)
  /-- R102, selects 24..31 (`11xxx`). -/
  | selRsvd24 (lo : BitVec 3)
  /-- R51, R71: a whole frame on the wire. Its count is the payload's length and its checksum is
  computed (log 18). -/
  | frame (start : Byte) (pay : List Byte)
  deriving DecidableEq, Repr

/-- The decoded fields, by name (R60, R96). -/
inductive Field where
  | accX | accY | accZ | gyrX | gyrY | gyrZ | roll | pitch | yaw | calib | temp
  | magX | magY | magZ | q0 | q1 | q2 | q3
  deriving DecidableEq, Repr

/-- The three scale divisors (R7, R97). -/
inductive Divisor where
  | one | hundred | tenThousand
  deriving DecidableEq, Repr

/-- The input pins of one cycle (R28); `clk` is the step itself (log 15). -/
structure Pins where
  rst : Bool
  sync_clr : Bool
  in_valid : Bool
  in_byte : Byte
  sel : BitVec 5
  link_down_i : Bool
  deriving DecidableEq, Repr

/-- The three encodings a decoder must read (30_encoding.md). -/
inductive Port where
  | cw | sel | wire
  deriving DecidableEq, Repr

/-- An encoded operation on its port: the 11-bit control word (R56), the 5-bit select code (R60) or the
bytes of a frame in stream order (R51). -/
inductive PortWord where
  | cw (w : BitVec 11)
  | sel (k : BitVec 5)
  | wire (bytes : List Byte)
  deriving DecidableEq, Repr

/-- What the environment does next (log 1): one clock cycle with all its pins; a field read through
`sel`, which takes no clock edge (R70, R101); or the delivery of bytes under the hold rule, the
statement FEED (R71, R146). -/
inductive Drive where
  | cycle (p : Pins)
  | select (k : BitVec 5)
  | wire (bytes : List Byte)
  deriving DecidableEq, Repr

end Sys2Proof
end

