-- ==== Sys2Proof/WellFormed.lean ====
section
/-! DEFINITION. Which instructions the encodings admit. Only FRAME has a condition: its start byte and
its count must pass the checks of rule R51. -/

namespace Sys2Proof

/-- R51, R53: `s < 0x2C` and `s + c < 0x2C`, the sum not wrapping (R74). Every other operand is as wide
as its field. -/
def Instr.wellFormed (i : Instr) : Bool :=
  match i with
  | .reset => true
  | .clear => true
  | .accept => true
  | .rejHdr => true
  | .rejFunc => true
  | .rejStart => true
  | .rejCount => true
  | .rejCsum => true
  | .push _ => true
  | .idle => true
  | .fieldAccX => true
  | .fieldAccY => true
  | .fieldAccZ => true
  | .fieldGyrX => true
  | .fieldGyrY => true
  | .fieldGyrZ => true
  | .fieldRoll => true
  | .fieldPitch => true
  | .fieldYaw => true
  | .fieldCalib => true
  | .fieldTemp => true
  | .fieldMagX => true
  | .fieldMagY => true
  | .fieldMagZ => true
  | .fieldQ0 => true
  | .fieldQ1 => true
  | .fieldQ2 => true
  | .fieldQ3 => true
  | .selRsvd18 _ => true
  | .selRsvd20 _ => true
  | .selRsvd24 _ => true
  | .frame start pay =>
      decide (start.toNat < Config.REG_LIMIT) && decide (start.toNat + pay.length < Config.REG_LIMIT)

end Sys2Proof
end

