-- ==== Sys2Proof/Decode.lean ====
section
/-! DEFINITION. The three decoders (control word, select code, wire frame), total and rejecting by name,
and after them the encoder, written from the same tables (30_encoding.md, opcode_table.json). -/

namespace Sys2Proof

/-- Sum of the bytes mod 256, 0 for no byte (R11). -/
def sum8 (S : List Byte) : Byte :=
  BitVec.ofNat 8 (S.map BitVec.toNat).sum

/-! ## The control word -/

/-- `CW = {rst, sync_clr, in_valid, in_byte[7:0]}` (R56). -/
def Pins.cw (p : Pins) : BitVec 11 :=
  BitVec.ofBool p.rst ++ BitVec.ofBool p.sync_clr ++ BitVec.ofBool p.in_valid ++ p.in_byte

/-- Bit 10 of the control word (R56). -/
def cwRst (w : BitVec 11) : Bool := w.getLsbD 10

/-- Bit 9 of the control word (R56). -/
def cwClr (w : BitVec 11) : Bool := w.getLsbD 9

/-- Bit 8 of the control word (R56). -/
def cwValid (w : BitVec 11) : Bool := w.getLsbD 8

/-- Bits 7..0 of the control word (R56). -/
def cwByte (w : BitVec 11) : Byte := w.extractLsb' 0 8

/-- Pins that carry the control word `w`, with `sel = 0` and the link up. -/
def Pins.ofCw (w : BitVec 11) : Pins where
  rst := cwRst w
  sync_clr := cwClr w
  in_valid := cwValid w
  in_byte := cwByte w
  sel := 0#5
  link_down_i := false

/-- Operation selection: the first row of R57 that matches, the RESOLVE variant by R58. Total: no
control word is illegal (R64). -/
def decodeCw (v : Verdict) (w : BitVec 11) : Instr :=
  if cwRst w then .reset
  else if cwClr w then .clear
  else
    match v with
    | .valid => .accept
    | .rejHdr => .rejHdr
    | .rejFunc => .rejFunc
    | .rejStart => .rejStart
    | .rejCount => .rejCount
    | .rejCsum => .rejCsum
    | .pending => if cwValid w then .push (cwByte w) else .idle

/-! ## The select code -/

/-- The decode table (R60, R97): field `k` is the byte at payload offset `k`, selected by `sel = k`, with
its divisor. It is the one place that orders the fields. -/
def decodeTable : Vector (Field × Divisor) Config.NFIELDS := #v[
  (.accX, .one), (.accY, .one), (.accZ, .one),
  (.gyrX, .one), (.gyrY, .one), (.gyrZ, .one),
  (.roll, .hundred), (.pitch, .hundred), (.yaw, .hundred),
  (.calib, .one), (.temp, .hundred),
  (.magX, .one), (.magY, .one), (.magZ, .one),
  (.q0, .tenThousand), (.q1, .tenThousand), (.q2, .tenThousand), (.q3, .tenThousand)]

/-- The place of a field in the decode table. -/
def fieldIndex (f : Field) : Nat := decodeTable.toList.findIdx fun row => decide (row.1 = f)

/-- Every field stands in the decode table. -/
theorem fieldIndex_lt (f : Field) : fieldIndex f < Config.NFIELDS := by
  cases f <;> decide

/-- The payload offset of a field (R97). -/
def fieldOffset (f : Field) : Fin Config.NFIELDS := ⟨fieldIndex f, fieldIndex_lt f⟩

/-- The select code of a field is its payload offset (R60). -/
def fieldSel (f : Field) : BitVec 5 := BitVec.ofNat 5 (fieldOffset f).val

/-- The read of a field, as an instruction (R96). -/
def fieldRead (f : Field) : Instr :=
  match f with
  | .accX => .fieldAccX
  | .accY => .fieldAccY
  | .accZ => .fieldAccZ
  | .gyrX => .fieldGyrX
  | .gyrY => .fieldGyrY
  | .gyrZ => .fieldGyrZ
  | .roll => .fieldRoll
  | .pitch => .fieldPitch
  | .yaw => .fieldYaw
  | .calib => .fieldCalib
  | .temp => .fieldTemp
  | .magX => .fieldMagX
  | .magY => .fieldMagY
  | .magZ => .fieldMagZ
  | .q0 => .fieldQ0
  | .q1 => .fieldQ1
  | .q2 => .fieldQ2
  | .q3 => .fieldQ3

/-- The read of the field that the decode table has at this select value (R60), or the reserved ranges
past its end (R61). Total (R64). -/
def decodeSel (k : BitVec 5) : Instr :=
  if h : k.toNat < Config.NFIELDS then fieldRead (decodeTable[k.toNat]'h).1
  else if k.toNat < 20 then .selRsvd18 (k.extractLsb' 0 1)
  else if k.toNat < 24 then .selRsvd20 (k.extractLsb' 0 2)
  else .selRsvd24 (k.extractLsb' 0 3)

/-! ## The wire frame -/

/-- Why bytes are no encoding of an operation. -/
inductive DecodeError where
  /-- A control word is two bytes, a select code one (log 4). -/
  | wrongLength
  /-- A bit above the control word's or the select code's width is set (log 4). -/
  | padding
  /-- Fewer bytes than the frame needs (R52). -/
  | incomplete
  /-- Offset 0 is not `0xA4` (R51). -/
  | badHeader
  /-- Offset 1 is not `0x03` (R51). -/
  | badFunction
  /-- Offset 2 is not below `0x2C` (R51). -/
  | badStart
  /-- Offset 2 plus offset 3 is not below `0x2C` (R51). -/
  | badCount
  /-- Bytes stand after the checksum (R52). -/
  | trailing
  /-- Offset `4 + count` is not the sum of all earlier bytes (R51). -/
  | badChecksum
  deriving DecidableEq, Repr

/-- The start register of the frame at the head of the bytes (R51). -/
def frameStart (bytes : List Byte) : Byte := bytes.getD Config.OFF_START 0#8

/-- The register count of the frame at the head of the bytes (R51, R52). -/
def frameCount (bytes : List Byte) : Nat := (bytes.getD Config.OFF_COUNT 0#8).toNat

/-- The checksum byte is the sum of all bytes before it (R51, R75). -/
def checksumOk (bytes : List Byte) : Bool :=
  decide (sum8 (bytes.take (Config.OFF_PAY + frameCount bytes))
    = bytes.getD (Config.OFF_PAY + frameCount bytes) 0#8)

/-- Reads bytes that are exactly one frame (R51, R52). -/
def decodeWire (bytes : List Byte) : Except DecodeError Instr :=
  if bytes.length < Config.OFF_PAY then .error .incomplete
  else if bytes.getD Config.OFF_HDR 0#8 ≠ Config.HDR then .error .badHeader
  else if bytes.getD Config.OFF_FUNC 0#8 ≠ Config.FUNC then .error .badFunction
  else if Config.REG_LIMIT ≤ (frameStart bytes).toNat then .error .badStart
  else if Config.REG_LIMIT ≤ (frameStart bytes).toNat + frameCount bytes then .error .badCount
  else if bytes.length < frameCount bytes + Config.MIN_LEN then .error .incomplete
  else if frameCount bytes + Config.MIN_LEN < bytes.length then .error .trailing
  else if checksumOk bytes then
    .ok (.frame (frameStart bytes) ((bytes.drop Config.OFF_PAY).take (frameCount bytes)))
  else .error .badChecksum

/-! ## Bytes of any port -/

/-- Decoding as bytes: a control word stands in two bytes, the lower byte first, a select code in one,
with the unused upper bits zero (log 4); a frame is its own bytes. `v` is `classify(W)`, which selects
between the operations that share a control word (R57). -/
def decode (p : Port) (v : Verdict) (bytes : List Byte) : Except DecodeError Instr :=
  match p, bytes with
  | .cw, [b0, b1] =>
    if b1.toNat < 8 then .ok (decodeCw v (b1.extractLsb' 0 3 ++ b0)) else .error .padding
  | .cw, _ => .error .wrongLength
  | .sel, [b0] => if b0.toNat < 32 then .ok (decodeSel (b0.extractLsb' 0 5)) else .error .padding
  | .sel, _ => .error .wrongLength
  | .wire, bs => decodeWire bs

/-! ## The encoder -/

/-- The frame without its checksum: header, function, start, count, payload (R51). -/
def frameBody (start : Byte) (pay : List Byte) : List Byte :=
  Config.HDR :: Config.FUNC :: start :: BitVec.ofNat 8 pay.length :: pay

/-- The bytes of a frame in stream order, checksum last (R51). -/
def frameBytes (start : Byte) (pay : List Byte) : List Byte :=
  frameBody start pay ++ [sum8 (frameBody start pay)]

/-- The word of an instruction, from the match column of the opcode table and, for the field reads, the
decode table (R60). Bits the opcode table leaves free are zero, but for the operand of PUSH and the low
bits of SEL_RSVD. -/
def encode (i : Instr) : PortWord :=
  match i with
  | .reset => .cw 0x400#11
  | .clear => .cw 0x200#11
  | .accept => .cw 0x000#11
  | .rejHdr => .cw 0x000#11
  | .rejFunc => .cw 0x000#11
  | .rejStart => .cw 0x000#11
  | .rejCount => .cw 0x000#11
  | .rejCsum => .cw 0x000#11
  | .push b => .cw (0x1#3 ++ b)
  | .idle => .cw 0x000#11
  | .fieldAccX => .sel (fieldSel .accX)
  | .fieldAccY => .sel (fieldSel .accY)
  | .fieldAccZ => .sel (fieldSel .accZ)
  | .fieldGyrX => .sel (fieldSel .gyrX)
  | .fieldGyrY => .sel (fieldSel .gyrY)
  | .fieldGyrZ => .sel (fieldSel .gyrZ)
  | .fieldRoll => .sel (fieldSel .roll)
  | .fieldPitch => .sel (fieldSel .pitch)
  | .fieldYaw => .sel (fieldSel .yaw)
  | .fieldCalib => .sel (fieldSel .calib)
  | .fieldTemp => .sel (fieldSel .temp)
  | .fieldMagX => .sel (fieldSel .magX)
  | .fieldMagY => .sel (fieldSel .magY)
  | .fieldMagZ => .sel (fieldSel .magZ)
  | .fieldQ0 => .sel (fieldSel .q0)
  | .fieldQ1 => .sel (fieldSel .q1)
  | .fieldQ2 => .sel (fieldSel .q2)
  | .fieldQ3 => .sel (fieldSel .q3)
  | .selRsvd18 lo => .sel (0x9#4 ++ lo)
  | .selRsvd20 lo => .sel (0x5#3 ++ lo)
  | .selRsvd24 lo => .sel (0x3#2 ++ lo)
  | .frame start pay => .wire (frameBytes start pay)

/-- The verdict under which an instruction's word selects it (R57, R58); RESET, CLEAR, the field reads
and FRAME are selected under any. -/
def selectingVerdict (i : Instr) : Verdict :=
  match i with
  | .accept => .valid
  | .rejHdr => .rejHdr
  | .rejFunc => .rejFunc
  | .rejStart => .rejStart
  | .rejCount => .rejCount
  | .rejCsum => .rejCsum
  | .reset => .pending
  | .clear => .pending
  | .push _ => .pending
  | .idle => .pending
  | .fieldAccX => .pending
  | .fieldAccY => .pending
  | .fieldAccZ => .pending
  | .fieldGyrX => .pending
  | .fieldGyrY => .pending
  | .fieldGyrZ => .pending
  | .fieldRoll => .pending
  | .fieldPitch => .pending
  | .fieldYaw => .pending
  | .fieldCalib => .pending
  | .fieldTemp => .pending
  | .fieldMagX => .pending
  | .fieldMagY => .pending
  | .fieldMagZ => .pending
  | .fieldQ0 => .pending
  | .fieldQ1 => .pending
  | .fieldQ2 => .pending
  | .fieldQ3 => .pending
  | .selRsvd18 _ => .pending
  | .selRsvd20 _ => .pending
  | .selRsvd24 _ => .pending
  | .frame _ _ => .pending

/-- The port an encoded word belongs to. -/
def PortWord.port (w : PortWord) : Port :=
  match w with
  | .cw _ => .cw
  | .sel _ => .sel
  | .wire _ => .wire

/-- The word as bytes, laid out as `decode` reads them (log 4). -/
def PortWord.bytes (w : PortWord) : List Byte :=
  match w with
  | .cw c => [c.extractLsb' 0 8, 0#5 ++ c.extractLsb' 8 3]
  | .sel k => [0#3 ++ k]
  | .wire bs => bs

/-! ## The opcode table's rows -/

/-- R51 as a predicate: the bytes are exactly one frame. -/
def isFrame (bytes : List Byte) : Bool :=
  decide (bytes.length = frameCount bytes + Config.MIN_LEN)
    && decide (bytes.getD Config.OFF_HDR 0#8 = Config.HDR)
    && decide (bytes.getD Config.OFF_FUNC 0#8 = Config.FUNC)
    && decide ((frameStart bytes).toNat < Config.REG_LIMIT)
    && decide ((frameStart bytes).toNat + frameCount bytes < Config.REG_LIMIT)
    && checksumOk bytes

/-- A row of opcode_table.json: match and mask of a control word or a select code, or the wire frame. -/
inductive TableRow where
  | cw11 (mtch mask : BitVec 11)
  | sel5 (mtch mask : BitVec 5)
  | wireFrame
  deriving DecidableEq, Repr

/-- The opcode table's row of each instruction, match and mask copied from opcode_table.json, for the encoder
and the decoder to be held against. -/
def tableRow (i : Instr) : TableRow :=
  match i with
  | .reset => .cw11 0x400#11 0x400#11
  | .clear => .cw11 0x200#11 0x600#11
  | .accept => .cw11 0x000#11 0x600#11
  | .rejHdr => .cw11 0x000#11 0x600#11
  | .rejFunc => .cw11 0x000#11 0x600#11
  | .rejStart => .cw11 0x000#11 0x600#11
  | .rejCount => .cw11 0x000#11 0x600#11
  | .rejCsum => .cw11 0x000#11 0x600#11
  | .push _ => .cw11 0x100#11 0x700#11
  | .idle => .cw11 0x000#11 0x700#11
  | .fieldAccX => .sel5 0x00#5 0x1F#5
  | .fieldAccY => .sel5 0x01#5 0x1F#5
  | .fieldAccZ => .sel5 0x02#5 0x1F#5
  | .fieldGyrX => .sel5 0x03#5 0x1F#5
  | .fieldGyrY => .sel5 0x04#5 0x1F#5
  | .fieldGyrZ => .sel5 0x05#5 0x1F#5
  | .fieldRoll => .sel5 0x06#5 0x1F#5
  | .fieldPitch => .sel5 0x07#5 0x1F#5
  | .fieldYaw => .sel5 0x08#5 0x1F#5
  | .fieldCalib => .sel5 0x09#5 0x1F#5
  | .fieldTemp => .sel5 0x0A#5 0x1F#5
  | .fieldMagX => .sel5 0x0B#5 0x1F#5
  | .fieldMagY => .sel5 0x0C#5 0x1F#5
  | .fieldMagZ => .sel5 0x0D#5 0x1F#5
  | .fieldQ0 => .sel5 0x0E#5 0x1F#5
  | .fieldQ1 => .sel5 0x0F#5 0x1F#5
  | .fieldQ2 => .sel5 0x10#5 0x1F#5
  | .fieldQ3 => .sel5 0x11#5 0x1F#5
  | .selRsvd18 _ => .sel5 0x12#5 0x1E#5
  | .selRsvd20 _ => .sel5 0x14#5 0x1C#5
  | .selRsvd24 _ => .sel5 0x18#5 0x18#5
  | .frame _ _ => .wireFrame

/-- Whether an encoded word belongs to a row of the table. -/
def TableRow.fits (r : TableRow) (w : PortWord) : Bool :=
  match r, w with
  | .cw11 mtch mask, .cw c => decide (c &&& mask = mtch)
  | .sel5 mtch mask, .sel k => decide (k &&& mask = mtch)
  | .wireFrame, .wire bytes => isFrame bytes
  | _, _ => false

/-! ## Words numbered as the opcode table numbers them -/

/-- The port of a table row of `nbits` bits (log 4): one byte is a select code and two bytes a control
word; the three SEL_RSVD rows, whose field "range" the reader read as bits, count as longer; a frame
has at least five bytes. -/
def tablePort (nbits : Nat) : Port :=
  if nbits ≤ 8 then .sel
  else if nbits ≤ 16 then .cw
  else if nbits < 8 * Config.MIN_LEN then .sel
  else .wire

/-- The first `n` bytes of the number `w`, least significant first. -/
def bytesOf (n w : Nat) : List Byte :=
  (List.range n).map fun k => BitVec.ofNat 8 (w / 2 ^ (8 * k))

/-- The bytes of the table word `w` on its port. -/
def tableBytes (nbits w : Nat) : List Byte :=
  match tablePort nbits with
  | .sel => bytesOf 1 w
  | .cw => bytesOf 2 w
  | .wire => bytesOf (nbits / 8) w

/-- What the decoder reads from the table word `w`. With no window at hand, `classify(W)` is taken as
`PENDING`, its value right after RESET (R140), so that `0x000` reads as IDLE (log 3). -/
def decodeTableWord (nbits w : Nat) : Option Instr :=
  (decode (tablePort nbits) .pending (tableBytes nbits w)).toOption

/-- The table word `w` as the environment drives it. -/
def driveTableWord (nbits w : Nat) : Drive :=
  match tablePort nbits with
  | .sel => .select (BitVec.ofNat 5 w)
  | .cw => .cycle (Pins.ofCw (BitVec.ofNat 11 w))
  | .wire => .wire (tableBytes nbits w)

end Sys2Proof
end

