-- ==== Sys2Proof/Machine/State.lean ====
section
/-! DEFINITION. The state of FSYNC-DEC (10_state.md R15), the parameter `CNT_W`, the ghost position and
the environment, all plain data; the reset state; the reasons a step could stop. -/

namespace Sys2Proof.Machine

/-- The frame register `FR`: the last accepted frame (R15, R19). -/
structure FrameReg where
  start : Byte
  count : Byte
  csum : Byte
  pay : Vector Byte Config.NFIELDS
  deriving DecidableEq, Repr

/-- The architectural state, exactly the elements of R15. The counters are natural numbers kept below
`2 ^ CNT_W` by every write (R24, log 8). -/
structure Hw where
  W : List Byte
  FR : FrameReg
  imu_valid : Bool
  imu_short : Bool
  evt : BitVec 3
  cnt_accept : Nat
  cnt_struct : Nat
  cnt_csum : Nat
  deriving DecidableEq, Repr

/-- The parameter `CNT_W`, the width of each diagnostic counter (R7, log 8). No operation writes it. -/
structure Params where
  cntW : Nat
  deriving DecidableEq, Repr

/-- The five outputs of the field multiplexer (R29, R101). -/
structure FieldOut where
  fld_raw : Byte
  fld_div : BitVec 2
  fld_is_float : Bool
  fld_f64 : BitVec 64
  sel_err : Bool
  deriving DecidableEq, Repr

/-- The MODEL's own fields: what stands outside the hardware. -/
structure Env where
  /-- What the environment drives next (log 1). -/
  drive : List Drive
  /-- How many cycles with free pins have gone by (log 2). -/
  tick : Nat
  /-- What the consumer saw at its last field read (log 5). -/
  seen : FieldOut
  deriving DecidableEq, Repr

/-- The machine. -/
structure State where
  cfg : Params
  hw : Hw
  /-- Ghost: stream bytes removed from `W` since the last RESET (R25, log 13). -/
  pos : Nat
  env : Env
  deriving DecidableEq, Repr

/-- A step that stops with an exception. FSYNC-DEC raises none (R125), so no constructor exists and no
step can fault (log 14). -/
inductive Fault where
  deriving DecidableEq, Repr

/-- A step the model gives no meaning. -/
inductive Refusal where
  /-- Raised only by an arm of `exec` whose instruction has no meaning yet; none is left. Safe. -/
  | notModelled (mnemonic : String)
  deriving DecidableEq, Repr

/-- Every element of `FR` zero (R31). -/
def FrameReg.reset : FrameReg where
  start := 0x00#8
  count := 0x00#8
  csum := 0x00#8
  pay := Vector.replicate Config.NFIELDS 0x00#8

/-- The reset values (R31). -/
def Hw.reset : Hw where
  W := []
  FR := FrameReg.reset
  imu_valid := false
  imu_short := false
  evt := 0#3
  cnt_accept := 0
  cnt_struct := 0
  cnt_csum := 0

/-- All five field outputs zero: what `sel = 0` shows right after RESET (R29). -/
def FieldOut.reset : FieldOut where
  fld_raw := 0x00#8
  fld_div := 0#2
  fld_is_float := false
  fld_f64 := 0#64
  sel_err := false

/-- The machine right after RESET (R31, R140), with the default `CNT_W` (R7), nothing scheduled and
nothing read yet (log 5, log 17). -/
def State.reset : State where
  cfg := { cntW := Config.CNT_W }
  hw := Hw.reset
  pos := 0
  env := { drive := [], tick := 0, seen := FieldOut.reset }

end Sys2Proof.Machine
end

