-- ==== Sys2Proof/Machine/Classify.lean ====
section
/-! DEFINITION. The synchronizer's only decision procedure, `classify(W)` (R72 to R75). -/

namespace Sys2Proof.Machine

/-- `W[i]`. It is consulted only for `i < |W|`, where R10 defines it (log 11). -/
def byteAt (W : List Byte) (i : Nat) : Byte := W.getD i 0#8

/-- `L = W[3] + 5`, the length of the candidate (R52, R73). -/
def frameLen (W : List Byte) : Nat := (byteAt W Config.OFF_COUNT).toNat + Config.MIN_LEN

/-- The verdict on the candidate at `W[0]` (R73), in the order of the rule's text: the first failing
check is the verdict. The byte at an offset is present when the window is longer
than the offset. Comparisons are unsigned and the sum does not wrap (R74). -/
def classify (W : List Byte) : Verdict :=
  if W.length ≤ Config.OFF_HDR then .pending
  else if byteAt W Config.OFF_HDR ≠ Config.HDR then .rejHdr
  else if W.length ≤ Config.OFF_FUNC then .pending
  else if byteAt W Config.OFF_FUNC ≠ Config.FUNC then .rejFunc
  else if W.length ≤ Config.OFF_START then .pending
  else if Config.REG_LIMIT ≤ (byteAt W Config.OFF_START).toNat then .rejStart
  else if W.length ≤ Config.OFF_COUNT then .pending
  else if Config.REG_LIMIT ≤ (byteAt W Config.OFF_START).toNat + (byteAt W Config.OFF_COUNT).toNat then
    .rejCount
  else if W.length < frameLen W then .pending
  else if sum8 (W.take (frameLen W - 1)) = byteAt W (frameLen W - 1) then .valid
  else .rejCsum

end Sys2Proof.Machine
end

