-- ==== Sys2Proof/Machine/Binary64.lean ====
section
/-! DEFINITION. `b2f64`, the binary64 pattern of a rational rounded to nearest, ties to even (R12, R103;
layout R40). Pinned by the tables of 95_test_vectors.md section 4 (R104, log 9). -/

namespace Sys2Proof.Machine

/-- `n / d` rounded to the nearest integer, ties to even. -/
def roundHalfEven (n d : Nat) : Nat :=
  if 2 * (n % d) < d then n / d
  else if d < 2 * (n % d) then n / d + 1
  else if (n / d) % 2 = 0 then n / d
  else n / d + 1

/-- The biased exponent of `n / d` for positive `n` and `d`: 1023 plus the floor of its binary
logarithm. -/
def biasedExp (n d : Nat) : Nat :=
  1023 + n.log2 - d.log2 - (if n * 2 ^ d.log2 < d * 2 ^ n.log2 then 1 else 0)

/-- The 53-bit significand of `n / d` under the biased exponent `e`, rounded; `2 ^ 53` where the
rounding carries. -/
def significand (n d e : Nat) : Nat :=
  if e ≤ 1075 then roundHalfEven (n * 2 ^ (1075 - e)) d else roundHalfEven n (d * 2 ^ (e - 1075))

/-- The pattern of `n / d` for `n / d` zero or in the normal range, which covers every field value
(R103). A carry out of the significand adds one to the exponent field, as it must. -/
def b2f64 (n d : Nat) : BitVec 64 :=
  if n = 0 then 0#64
  else BitVec.ofNat 64 (biasedExp n d * 2 ^ 52 + significand n d (biasedExp n d) - 2 ^ 52)

end Sys2Proof.Machine
end

