-- ==== Sys2Proof/Machine/Operands.lean ====
section
/-! DEFINITION. The divisors, the outputs of one field and the output multiplexer (41_decoder.md section 1). -/

namespace Sys2Proof

/-- The divisor's value (R97). -/
def Divisor.value (d : Divisor) : Nat :=
  match d with
  | .one => Config.DIV_RAW
  | .hundred => Config.DIV_DEGREES
  | .tenThousand => Config.DIV_UNIT

/-- The divisor code `fld_div`; `11` is never produced (R62). -/
def Divisor.code (d : Divisor) : BitVec 2 :=
  match d with
  | .one => 0b00#2
  | .hundred => 0b01#2
  | .tenThousand => 0b10#2

end Sys2Proof

namespace Sys2Proof.Machine

/-- The divisor of the field at payload offset `k`, from the decode table (R97). -/
def fieldDivisor (k : Fin Config.NFIELDS) : Divisor := decodeTable[k].2

/-- The outputs for one raw byte and its divisor. The byte is unsigned and passes unchanged (R100); the
scaled value is that of R103. -/
def fieldOut (raw : Byte) (d : Divisor) : FieldOut where
  fld_raw := raw
  fld_div := d.code
  fld_is_float := decide (d ≠ .one)
  fld_f64 := b2f64 raw.toNat d.value
  sel_err := false

/-- The outputs of a reserved select (R61, R102). -/
def reservedOut : FieldOut where
  fld_raw := 0x00#8
  fld_div := 0b00#2
  fld_is_float := false
  fld_f64 := 0x0000000000000000#64
  sel_err := true

/-- The outputs for the field at payload offset `k` (R97, R101). -/
def offsetOut (FR : FrameReg) (k : Fin Config.NFIELDS) : FieldOut := fieldOut FR.pay[k] (fieldDivisor k)

/-- The output multiplexer (R101). -/
def mux (FR : FrameReg) (sel : BitVec 5) : FieldOut :=
  if h : sel.toNat < Config.NFIELDS then offsetOut FR ⟨sel.toNat, h⟩ else reservedOut

end Sys2Proof.Machine
end

