-- ==== Sys2Proof/Machine/Flags.lean ====
section
/-! DEFINITION. Event codes (R63), the status flags (R26) and the outputs (R29), all functions of the
state and the pins (R13). -/

namespace Sys2Proof.Machine

/-- NONE (R63). -/
def evtNone : BitVec 3 := 0#3
/-- ACCEPT (R63). -/
def evtAccept : BitVec 3 := 1#3
/-- REJ_HDR (R63). -/
def evtRejHdr : BitVec 3 := 2#3
/-- REJ_FUNC (R63). -/
def evtRejFunc : BitVec 3 := 3#3
/-- REJ_START (R63). -/
def evtRejStart : BitVec 3 := 4#3
/-- REJ_COUNT (R63). -/
def evtRejCount : BitVec 3 := 5#3
/-- REJ_CSUM (R63). -/
def evtRejCsum : BitVec 3 := 6#3

/-- `imu_short` of an accepted frame with this count (R22). -/
def shortFlag (count : Byte) : Bool := decide (count.toNat < Config.NFIELDS)

/-- `in_ready` (R29). -/
def inReady (h : Hw) (p : Pins) : Bool :=
  decide (classify h.W = .pending) && !p.rst && !p.sync_clr

/-- The outputs (R29). -/
structure Outputs where
  in_ready : Bool
  win_len : BitVec 6
  evt_code : BitVec 3
  imu_valid : Bool
  imu_short : Bool
  frm_start : Byte
  frm_count : Byte
  frm_csum : Byte
  cnt_accept : Nat
  cnt_struct : Nat
  cnt_csum : Nat
  fld : FieldOut
  link_down : Bool
  deriving DecidableEq, Repr

/-- What the outputs show in state `h` while the pins are at `p` (R13, R29). -/
def outputs (h : Hw) (p : Pins) : Outputs where
  in_ready := inReady h p
  win_len := BitVec.ofNat 6 h.W.length
  evt_code := h.evt
  imu_valid := h.imu_valid
  imu_short := h.imu_short
  frm_start := h.FR.start
  frm_count := h.FR.count
  frm_csum := h.FR.csum
  cnt_accept := h.cnt_accept
  cnt_struct := h.cnt_struct
  cnt_csum := h.cnt_csum
  fld := mux h.FR p.sel
  link_down := p.link_down_i

end Sys2Proof.Machine
end

