-- ==== Sys2Proof/Machine/Ops.lean ====
section
/-! DEFINITION. The named operations over the state that the meanings are made of. FSYNC-DEC takes no
exception and returns from none (R125, R131, R132); what stands in their place is the shared
resynchronization step `resync` (R78). It has no memory (R35). -/

namespace Sys2Proof.Machine

/-- One more event in a counter of `w` bits: wraps, never saturates (R24). -/
def countUp (w n : Nat) : Nat := (n + 1) % 2 ^ w

/-- Replaces the hardware state and nothing else. -/
def State.setHw (s : State) (h : Hw) : State := { s with hw := h }

/-- Replaces the ghost position and nothing else. -/
def State.setPos (s : State) (n : Nat) : State := { s with pos := n }

/-- Replaces what the consumer saw and nothing else. -/
def State.setSeen (s : State) (o : FieldOut) : State := { s with env := { s.env with seen := o } }

/-- Replaces the schedule and nothing else. -/
def State.setDrive (s : State) (ds : List Drive) : State :=
  { s with env := { s.env with drive := ds } }

/-- `evt <- code`, nothing else (R12). -/
def writeEvent (code : BitVec 3) (s : State) : State := s.setHw { s.hw with evt := code }

/-- `W <- W ++ [b]; evt <- NONE` (R77). -/
def appendByte (b : Byte) (s : State) : State :=
  s.setHw { s.hw with W := s.hw.W ++ [b], evt := evtNone }

/-- `W <- []; evt <- NONE`; the ghost position passes the discarded bytes (R85, R25). -/
def emptyWindow (s : State) : State :=
  (s.setHw { s.hw with W := [], evt := evtNone }).setPos (s.pos + s.hw.W.length)

/-- Every element of R15 to its reset value; the ghost position starts again (R139, R25). -/
def resetAll (s : State) : State := (s.setHw Hw.reset).setPos 0

/-- The resynchronization every reject shares: the one byte at the scan origin goes (R78, R25), and the
event is written. -/
def resync (code : BitVec 3) (s : State) : State :=
  (s.setHw { s.hw with W := s.hw.W.drop 1, evt := code }).setPos (s.pos + 1)

/-- A structural reject: resynchronization and one more structural reject counted (R79 to R82). -/
def rejectStructural (code : BitVec 3) (s : State) : State :=
  let t := resync code s
  t.setHw { t.hw with cnt_struct := countUp s.cfg.cntW s.hw.cnt_struct }

/-- A checksum reject: resynchronization and one more checksum reject counted (R83). -/
def rejectChecksum (code : BitVec 3) (s : State) : State :=
  let t := resync code s
  t.setHw { t.hw with cnt_csum := countUp s.cfg.cntW s.hw.cnt_csum }

/-- The frame register as an ACCEPT of the candidate in `W` loads it (R19, R84). -/
def loadFrame (W : List Byte) : FrameReg where
  start := byteAt W Config.OFF_START
  count := byteAt W Config.OFF_COUNT
  csum := byteAt W (frameLen W - 1)
  pay := Vector.ofFn fun k : Fin Config.NFIELDS =>
    if k.val < (byteAt W Config.OFF_COUNT).toNat then byteAt W (Config.OFF_PAY + k.val) else 0x00#8

/-- The consumer reads one field: it sees what the decode table gives for it, and no state of the
hardware changes (R44, R97, R101, log 5). -/
def seeField (f : Field) (s : State) : State := s.setSeen (offsetOut s.hw.FR (fieldOffset f))

/-- Certify the candidate: load `FR` whole, set the flags, count, drop the frame's `L` bytes (R84). -/
def acceptFrame (s : State) : State :=
  (s.setHw
    { s.hw with
      W := s.hw.W.drop (frameLen s.hw.W)
      FR := loadFrame s.hw.W
      imu_valid := true
      imu_short := shortFlag (byteAt s.hw.W Config.OFF_COUNT)
      evt := evtAccept
      cnt_accept := countUp s.cfg.cntW s.hw.cnt_accept }).setPos (s.pos + frameLen s.hw.W)

end Sys2Proof.Machine
end

