-- ==== Sys2Proof/Machine/Control.lean ====
section
/-! DEFINITION. The meanings of RESET, CLEAR and IDLE. -/

namespace Sys2Proof.Machine

/-- RESET (R139). -/
def execReset (s : State) : Host.Outcome State Fault Refusal := .next (resetAll s)

/-- CLEAR (R85). -/
def execClear (s : State) : Host.Outcome State Fault Refusal := .next (emptyWindow s)

/-- IDLE (R86). -/
def execIdle (s : State) : Host.Outcome State Fault Refusal := .next (writeEvent evtNone s)

end Sys2Proof.Machine
end

