-- ==== Sys2Proof/Machine/FieldRead.lean ====
section
/-! DEFINITION. The meanings of the field reads (41_decoder.md section 2): each presents its byte of
`FR.pay` with its divisor, both from the decode table, and changes no state of the hardware; the consumer
sees the five outputs (log 5). -/

namespace Sys2Proof.Machine

/-- FIELD ACC_X, `sel = 0` (R105). -/
def execFieldAccX (s : State) : Host.Outcome State Fault Refusal := .next (seeField .accX s)

/-- FIELD ACC_Y, `sel = 1` (R106). -/
def execFieldAccY (s : State) : Host.Outcome State Fault Refusal := .next (seeField .accY s)

/-- FIELD ACC_Z, `sel = 2` (R107). -/
def execFieldAccZ (s : State) : Host.Outcome State Fault Refusal := .next (seeField .accZ s)

/-- FIELD GYR_X, `sel = 3` (R108). -/
def execFieldGyrX (s : State) : Host.Outcome State Fault Refusal := .next (seeField .gyrX s)

/-- FIELD GYR_Y, `sel = 4` (R109). -/
def execFieldGyrY (s : State) : Host.Outcome State Fault Refusal := .next (seeField .gyrY s)

/-- FIELD GYR_Z, `sel = 5` (R110). -/
def execFieldGyrZ (s : State) : Host.Outcome State Fault Refusal := .next (seeField .gyrZ s)

/-- FIELD ROLL, `sel = 6` (R111). -/
def execFieldRoll (s : State) : Host.Outcome State Fault Refusal := .next (seeField .roll s)

/-- FIELD PITCH, `sel = 7` (R112). -/
def execFieldPitch (s : State) : Host.Outcome State Fault Refusal := .next (seeField .pitch s)

/-- FIELD YAW, `sel = 8` (R113). -/
def execFieldYaw (s : State) : Host.Outcome State Fault Refusal := .next (seeField .yaw s)

/-- FIELD CALIB, `sel = 9` (R114). -/
def execFieldCalib (s : State) : Host.Outcome State Fault Refusal := .next (seeField .calib s)

/-- FIELD TEMP, `sel = 10` (R115). -/
def execFieldTemp (s : State) : Host.Outcome State Fault Refusal := .next (seeField .temp s)

/-- FIELD MAG_X, `sel = 11` (R116). -/
def execFieldMagX (s : State) : Host.Outcome State Fault Refusal := .next (seeField .magX s)

/-- FIELD MAG_Y, `sel = 12` (R117). -/
def execFieldMagY (s : State) : Host.Outcome State Fault Refusal := .next (seeField .magY s)

/-- FIELD MAG_Z, `sel = 13` (R118). -/
def execFieldMagZ (s : State) : Host.Outcome State Fault Refusal := .next (seeField .magZ s)

/-- FIELD Q0, `sel = 14` (R119). -/
def execFieldQ0 (s : State) : Host.Outcome State Fault Refusal := .next (seeField .q0 s)

/-- FIELD Q1, `sel = 15` (R120). -/
def execFieldQ1 (s : State) : Host.Outcome State Fault Refusal := .next (seeField .q1 s)

/-- FIELD Q2, `sel = 16` (R121). -/
def execFieldQ2 (s : State) : Host.Outcome State Fault Refusal := .next (seeField .q2 s)

/-- FIELD Q3, `sel = 17` (R122). -/
def execFieldQ3 (s : State) : Host.Outcome State Fault Refusal := .next (seeField .q3 s)

/-- SEL_RSVD, `sel` in 18..19 (R102). -/
def execSelRsvd18 (s : State) : Host.Outcome State Fault Refusal := .next (s.setSeen reservedOut)

/-- SEL_RSVD, `sel` in 20..23 (R102). -/
def execSelRsvd20 (s : State) : Host.Outcome State Fault Refusal := .next (s.setSeen reservedOut)

/-- SEL_RSVD, `sel` in 24..31 (R102). -/
def execSelRsvd24 (s : State) : Host.Outcome State Fault Refusal := .next (s.setSeen reservedOut)

end Sys2Proof.Machine
end

