-- ==== Sys2Proof/Machine/Synchronizer.lean ====
section
/-! DEFINITION. The meanings of PUSH and of the six RESOLVE variants (40_synchronizer.md section 2), each
the rule's pseudocode (log 7), and RESOLVE itself, the table of R58. -/

namespace Sys2Proof.Machine

/-- PUSH (R77). -/
def execPush (b : Byte) (s : State) : Host.Outcome State Fault Refusal := .next (appendByte b s)

/-- REJ_HDR (R79). -/
def execRejHdr (s : State) : Host.Outcome State Fault Refusal :=
  .next (rejectStructural evtRejHdr s)

/-- REJ_FUNC (R80). -/
def execRejFunc (s : State) : Host.Outcome State Fault Refusal :=
  .next (rejectStructural evtRejFunc s)

/-- REJ_START (R81). -/
def execRejStart (s : State) : Host.Outcome State Fault Refusal :=
  .next (rejectStructural evtRejStart s)

/-- REJ_COUNT (R82). -/
def execRejCount (s : State) : Host.Outcome State Fault Refusal :=
  .next (rejectStructural evtRejCount s)

/-- REJ_CSUM (R83). -/
def execRejCsum (s : State) : Host.Outcome State Fault Refusal :=
  .next (rejectChecksum evtRejCsum s)

/-- ACCEPT (R84). -/
def execAccept (s : State) : Host.Outcome State Fault Refusal := .next (acceptFrame s)

/-- One RESOLVE step in the variant of `classify(W)` (R58); nothing where the candidate is pending. -/
def resolve (s : State) : State :=
  match classify s.hw.W with
  | .pending => s
  | .valid => acceptFrame s
  | .rejHdr => rejectStructural evtRejHdr s
  | .rejFunc => rejectStructural evtRejFunc s
  | .rejStart => rejectStructural evtRejStart s
  | .rejCount => rejectStructural evtRejCount s
  | .rejCsum => rejectChecksum evtRejCsum s

/-- RESOLVE steps until the candidate is pending, at most `fuel` of them (R87). -/
def resolveAll (fuel : Nat) (s : State) : State :=
  match fuel with
  | 0 => s
  | n + 1 => if classify s.hw.W = .pending then s else resolveAll n (resolve s)

/-- DRAIN (R71). A chain has at most `|W|` steps (R87). -/
def drain (s : State) : State := resolveAll s.hw.W.length s

end Sys2Proof.Machine
end

