-- ==== Sys2Proof/Machine/Wire.lean ====
section
/-! DEFINITION. The statements FEED and FRAME (R70, R71): bytes delivered under the hold rule (R59, R146),
and the meaning of FRAME (log 6). -/

namespace Sys2Proof.Machine

/-- `PUSH b` of R70: the byte is held while RESOLVE steps run, then taken. -/
def holdPush (b : Byte) (s : State) : State := appendByte b (drain s)

/-- `FEED b0 .. bn` of R71: each byte pushed in order, then DRAIN. -/
def feed (bytes : List Byte) (s : State) : State :=
  drain (bytes.foldl (fun t b => holdPush b t) s)

/-- FRAME (R51, R71): FEED of the frame's bytes. -/
def execFrame (start : Byte) (pay : List Byte) (s : State) : Host.Outcome State Fault Refusal :=
  .next (feed (frameBytes start pay) s)

end Sys2Proof.Machine
end

