-- ==== Sys2Proof/Machine/Dispatch.lean ====
section
/-! DEFINITION. One arm per instruction. -/

namespace Sys2Proof.Machine

def exec (i : Instr) (s : State) : Host.Outcome State Fault Refusal :=
  match i with
  | .reset => Sys2Proof.Machine.execReset s
  | .clear => Sys2Proof.Machine.execClear s
  | .accept => Sys2Proof.Machine.execAccept s
  | .rejHdr => Sys2Proof.Machine.execRejHdr s
  | .rejFunc => Sys2Proof.Machine.execRejFunc s
  | .rejStart => Sys2Proof.Machine.execRejStart s
  | .rejCount => Sys2Proof.Machine.execRejCount s
  | .rejCsum => Sys2Proof.Machine.execRejCsum s
  | .push b => Sys2Proof.Machine.execPush b s
  | .idle => Sys2Proof.Machine.execIdle s
  | .fieldAccX => Sys2Proof.Machine.execFieldAccX s
  | .fieldAccY => Sys2Proof.Machine.execFieldAccY s
  | .fieldAccZ => Sys2Proof.Machine.execFieldAccZ s
  | .fieldGyrX => Sys2Proof.Machine.execFieldGyrX s
  | .fieldGyrY => Sys2Proof.Machine.execFieldGyrY s
  | .fieldGyrZ => Sys2Proof.Machine.execFieldGyrZ s
  | .fieldRoll => Sys2Proof.Machine.execFieldRoll s
  | .fieldPitch => Sys2Proof.Machine.execFieldPitch s
  | .fieldYaw => Sys2Proof.Machine.execFieldYaw s
  | .fieldCalib => Sys2Proof.Machine.execFieldCalib s
  | .fieldTemp => Sys2Proof.Machine.execFieldTemp s
  | .fieldMagX => Sys2Proof.Machine.execFieldMagX s
  | .fieldMagY => Sys2Proof.Machine.execFieldMagY s
  | .fieldMagZ => Sys2Proof.Machine.execFieldMagZ s
  | .fieldQ0 => Sys2Proof.Machine.execFieldQ0 s
  | .fieldQ1 => Sys2Proof.Machine.execFieldQ1 s
  | .fieldQ2 => Sys2Proof.Machine.execFieldQ2 s
  | .fieldQ3 => Sys2Proof.Machine.execFieldQ3 s
  | .selRsvd18 _ => Sys2Proof.Machine.execSelRsvd18 s
  | .selRsvd20 _ => Sys2Proof.Machine.execSelRsvd20 s
  | .selRsvd24 _ => Sys2Proof.Machine.execSelRsvd24 s
  | .frame start pay => Sys2Proof.Machine.execFrame start pay s

end Sys2Proof.Machine
end

