-- ==== Sys2Proof/Machine/Fetch.lean ====
section
/-! DEFINITION. Where a step takes its instruction from: what the environment drives next (log 1, log 2),
decoded against the window (R57). -/

namespace Sys2Proof.Machine

/-- The pins of the `n`-th cycle for which nothing is scheduled: free values (log 2). -/
def freePins (n : Nat) : Pins :=
  { Pins.ofCw (Config.freeCw n) with sel := Config.freeSel n, link_down_i := Config.freeLink n }

/-- What is driven next, and the state without it: the head of the schedule, or a cycle with free pins
where nothing is scheduled. -/
def fetch (s : State) : Drive × State :=
  match s.env.drive with
  | d :: ds => (d, s.setDrive ds)
  | [] => (.cycle (freePins s.env.tick), { s with env := { s.env with tick := s.env.tick + 1 } })

/-- The operation that what is driven selects in the window `W` (R57, R60, R51). -/
def selected (d : Drive) (W : List Byte) : Except DecodeError Instr :=
  match d with
  | .cycle p => .ok (decodeCw (classify W) p.cw)
  | .select k => .ok (decodeSel k)
  | .wire bytes => decodeWire bytes

/-- Bytes on the wire that are no frame are taken all the same, as a stream (R55, log 12). -/
def strayBytes (d : Drive) (s : State) : State :=
  match d with
  | .wire bytes => feed bytes s
  | .cycle _ => s
  | .select _ => s

end Sys2Proof.Machine
end

