-- ==== Sys2Proof/Machine/Step.lean ====
section
/-! DEFINITION. One step of the machine. -/

namespace Sys2Proof.Machine

/-- Take what is driven next and run the operation it selects (R6, R57). -/
def step (s : State) : Host.Outcome State Fault Refusal :=
  match selected (fetch s).1 (fetch s).2.hw.W with
  | .ok i => exec i (fetch s).2
  | .error _ => .next (strayBytes (fetch s).1 (fetch s).2)

/-- The table word `w` scheduled in front of everything else, so that the next step runs it (log 1). -/
def State.withFetchWord (s : State) (nbits w : Nat) : State :=
  s.setDrive (driveTableWord nbits w :: s.env.drive)

end Sys2Proof.Machine
end

