-- ==== Sys2Proof/Safety.lean ====
section
/-! DEFINITION. The terms in which claims about runs are stated: clock cycles and their history (R13), the
stream parse (R88), reachable states (R32), the invariants, and the value of a binary64 pattern (R40). -/

namespace Sys2Proof.Machine

/-! ## Clock cycles and their history -/

/-- The state after the step in which the environment drives the pins `p` for one cycle. -/
def clock (p : Pins) (s : State) : State :=
  match step (s.setDrive (.cycle p :: s.env.drive)) with
  | .next t => t
  | .fault _ => s
  | .refused _ => s

/-- The state after the cycles `ps`, one after another. -/
def clockRun (ps : List Pins) (s : State) : State :=
  match ps with
  | [] => s
  | p :: rest => clockRun rest (clock p s)

/-- The byte transferred in a cycle, if any (R59). -/
def takenNow (p : Pins) (s : State) : List Byte :=
  if inReady s.hw p && p.in_valid then [p.in_byte] else []

/-- The stream transferred in the cycles `ps` (R59, R146). -/
def taken (ps : List Pins) (s : State) : List Byte :=
  match ps with
  | [] => []
  | p :: rest => takenNow p s ++ taken rest (clock p s)

/-- The frame accepted in a cycle, if any, with its stream position. -/
def acceptedNow (p : Pins) (s : State) : List (Nat × List Byte) :=
  if decodeCw (classify s.hw.W) p.cw = .accept then
    [(s.pos, s.hw.W.take (frameLen s.hw.W))]
  else []

/-- The frames accepted in the cycles `ps`, in order, with their stream positions. -/
def accepted (ps : List Pins) (s : State) : List (Nat × List Byte) :=
  match ps with
  | [] => []
  | p :: rest => acceptedNow p s ++ accepted rest (clock p s)

/-- Neither control is active in the cycle. -/
def running (p : Pins) : Bool := !p.rst && !p.sync_clr

/-- How many of the cycles `ps` are RESOLVE steps (R57, row 3). -/
def resolveSteps (ps : List Pins) (s : State) : Nat :=
  match ps with
  | [] => 0
  | p :: rest =>
    (if running p && decide (classify s.hw.W ≠ .pending) then 1 else 0)
      + resolveSteps rest (clock p s)

/-! ## The stream parse -/

/-- `Parse` from stream position `p` on, at most `fuel` rounds (R88): the frames found, each with its
position, and the position where the pending rest begins. -/
def parseFrom (fuel : Nat) (S : List Byte) (p : Nat) : List (Nat × List Byte) × Nat :=
  match fuel with
  | 0 => ([], p)
  | n + 1 =>
    match classify (S.drop p) with
    | .pending => ([], p)
    | .valid =>
      let L := frameLen (S.drop p)
      ((p, (S.drop p).take L) :: (parseFrom n S (p + L)).1, (parseFrom n S (p + L)).2)
    | .rejHdr | .rejFunc | .rejStart | .rejCount | .rejCsum => parseFrom n S (p + 1)

/-- `Parse(S)` (R88). Each round advances at least one byte, so `|S| + 1` rounds reach the end. -/
def parse (S : List Byte) : List (Nat × List Byte) × Nat := parseFrom (S.length + 1) S 0

/-! ## Reachable states and invariants -/

/-- The states claims are about: reached by a RESET step from any state whatever, and then by steps
(R32). -/
inductive Reachable : State → Prop where
  | afterReset (s t : State) : exec .reset s = .next t → Reachable t
  | afterStep (s t : State) : Reachable s → step s = .next t → Reachable t

/-- What holds of the hardware after every step (R18, R19, R21, R22, R24, R33). -/
structure Inv (s : State) : Prop where
  window : s.hw.W.length ≤ Config.WIN_DEPTH
  count : s.hw.FR.count.toNat ≤ Config.MAX_COUNT
  range : s.hw.FR.start.toNat + s.hw.FR.count.toNat < Config.REG_LIMIT
  fill : ∀ k : Fin Config.NFIELDS, s.hw.FR.count.toNat ≤ k.val → s.hw.FR.pay[k.val] = 0x00#8
  event : s.hw.evt ≠ 7#3
  short : s.hw.imu_valid = true → s.hw.imu_short = decide (s.hw.FR.count.toNat < Config.NFIELDS)
  fresh : s.hw.imu_valid = false → s.hw.FR = FrameReg.reset ∧ s.hw.imu_short = false
  accepts : s.hw.cnt_accept < 2 ^ s.cfg.cntW
  structs : s.hw.cnt_struct < 2 ^ s.cfg.cntW
  csums : s.hw.cnt_csum < 2 ^ s.cfg.cntW

/-- The frame register holds a frame whose checksum is right, as far as its bytes are stored: with at
most `NFIELDS` payload bytes all of them are (R19, R75). -/
def ChecksumHeld (s : State) : Prop :=
  s.hw.imu_valid = true → s.hw.FR.count.toNat ≤ Config.NFIELDS →
    s.hw.FR.csum = sum8 ([Config.HDR, Config.FUNC, s.hw.FR.start, s.hw.FR.count]
      ++ s.hw.FR.pay.toList.take s.hw.FR.count.toNat)

/-! ## Binary64 values -/

/-- The biased exponent field, bits 62..52 (R40). -/
def f64Exp (b : BitVec 64) : Nat := (b.extractLsb' 52 11).toNat

/-- The fraction field, bits 51..0 (R40). -/
def f64Frac (b : BitVec 64) : Nat := (b.extractLsb' 0 52).toNat

/-- The rational a pattern with a finite value stands for (R40; the format is the spec's general
knowledge, log 9). -/
def f64Value (b : BitVec 64) : ℚ :=
  (if b.getLsbD 63 then -1 else 1) *
    (if f64Exp b = 0 then (f64Frac b : ℚ) * 2 ^ (-1074 : ℤ)
     else ((2 ^ 52 + f64Frac b : ℕ) : ℚ) * 2 ^ ((f64Exp b : ℤ) - 1075))

end Sys2Proof.Machine
end

