-- ==== Sys2Proof/Certificates/Slice0/Obligations.lean ====
section
/-! DEFINITION. The statements about the model, each a proposition; the docstring names the rules of the
spec it formalises, or the log entry of the model's own choice it rests on. -/

open Sys2Proof Sys2Proof.Machine

/-! ## Reset and control -/

/-- R31: the values of every state element right after reset, and that the RESET step writes them. -/
def Obligations.ResetStateHoldsSpecValues : Prop :=
  State.reset.hw.W = [] ∧
  State.reset.hw.FR.start = 0x00#8 ∧ State.reset.hw.FR.count = 0x00#8 ∧
  State.reset.hw.FR.csum = 0x00#8 ∧
  (∀ k : Fin 18, State.reset.hw.FR.pay[k.val] = 0x00#8) ∧
  State.reset.hw.imu_valid = false ∧ State.reset.hw.imu_short = false ∧
  State.reset.hw.evt = 0#3 ∧
  State.reset.hw.cnt_accept = 0 ∧ State.reset.hw.cnt_struct = 0 ∧ State.reset.hw.cnt_csum = 0 ∧
  ∀ s : State, ∃ t, exec .reset s = .next t ∧ t.hw = State.reset.hw

/-- R139, with the ghost position of R25: RESET completes in every state, writes every element of the
state, and leaves the parameter and the environment alone. Every cycle with `rst = 1` selects it, and no
byte is taken in one. -/
def Obligations.ResetCompletes : Prop :=
  (∀ (s : State) (p : Pins), p.rst = true →
    decodeCw (classify s.hw.W) p.cw = .reset ∧ (outputs s.hw p).in_ready = false) ∧
  ∀ s : State, exec .reset s = .next { s with
    hw := {
      W := []
      FR := { start := 0x00#8, count := 0x00#8, csum := 0x00#8, pay := Vector.replicate 18 0x00#8 }
      imu_valid := false
      imu_short := false
      evt := 0#3
      cnt_accept := 0
      cnt_struct := 0
      cnt_csum := 0 }
    pos := 0 }

/-- R85, with the ghost position of R25: CLEAR completes in every state and writes only the window and
the event. Every cycle with `rst = 0` and `sync_clr = 1` selects it, and no byte is taken in one. -/
def Obligations.ClearCompletes : Prop :=
  (∀ (s : State) (p : Pins), p.rst = false → p.sync_clr = true →
    decodeCw (classify s.hw.W) p.cw = .clear ∧ (outputs s.hw p).in_ready = false) ∧
  ∀ s : State, exec .clear s = .next { s with
    hw := { s.hw with W := [], evt := 0#3 }
    pos := s.pos + s.hw.W.length }

/-- R86: IDLE completes wherever the candidate is pending and writes only the event. -/
def Obligations.IdleCompletes : Prop :=
  ∀ s : State, classify s.hw.W = .pending →
    exec .idle s = .next { s with hw := { s.hw with evt := 0#3 } }

/-- R130 part 1, R139 and R85 corner cases: a cycle with `rst = 1` ends in the reset values whatever else
is driven; one with `rst = 0` and `sync_clr = 1` ends with an empty window, the offered byte not taken,
nothing counted and the last frame kept, whatever the window holds. -/
def Obligations.ResetAndClearOverrideAll : Prop :=
  ∀ (s : State) (p : Pins) (ds : List Drive), s.env.drive = .cycle p :: ds →
    (p.rst = true → ∃ t, step s = .next t ∧ t.hw = State.reset.hw ∧ t.pos = 0) ∧
    (p.rst = false → p.sync_clr = true → ∃ t, step s = .next t ∧
      t.hw = { s.hw with W := [], evt := 0#3 })

/-- R29 reset column, R140: after RESET, with every pin at zero, every output is zero but `in_ready`. -/
def Obligations.ResetOutputsAreZeroAndReady : Prop :=
  ∀ s : State, ∃ t, exec .reset s = .next t ∧
    outputs t.hw ⟨false, false, false, 0x00#8, 0#5, false⟩ =
      { in_ready := true, win_len := 0#6, evt_code := 0#3, imu_valid := false, imu_short := false,
        frm_start := 0x00#8, frm_count := 0x00#8, frm_csum := 0x00#8,
        cnt_accept := 0, cnt_struct := 0, cnt_csum := 0,
        fld := ⟨0x00#8, 0b00#2, false, 0x0000000000000000#64, false⟩, link_down := false }

/-! ## Synchronizer operations -/

/-- R77: PUSH completes wherever the candidate is pending; it never overflows the window. -/
def Obligations.PushCompletes : Prop :=
  ∀ (b : Byte) (s : State), classify s.hw.W = .pending →
    s.hw.W.length ≤ 47 ∧
    exec (.push b) s = .next { s with hw := { s.hw with W := s.hw.W ++ [b], evt := 0#3 } }

/-- R79 to R82, with the ghost position of R25: each structural reject completes where it is selected,
drops one byte, counts one structural reject modulo `2 ^ CNT_W` and writes its own event. -/
def Obligations.StructuralRejectsComplete : Prop :=
  ∀ s : State,
    (classify s.hw.W = .rejHdr → exec .rejHdr s = .next { s with
      hw := { s.hw with
        W := s.hw.W.drop 1, evt := 2#3, cnt_struct := (s.hw.cnt_struct + 1) % 2 ^ s.cfg.cntW }
      pos := s.pos + 1 }) ∧
    (classify s.hw.W = .rejFunc → exec .rejFunc s = .next { s with
      hw := { s.hw with
        W := s.hw.W.drop 1, evt := 3#3, cnt_struct := (s.hw.cnt_struct + 1) % 2 ^ s.cfg.cntW }
      pos := s.pos + 1 }) ∧
    (classify s.hw.W = .rejStart → exec .rejStart s = .next { s with
      hw := { s.hw with
        W := s.hw.W.drop 1, evt := 4#3, cnt_struct := (s.hw.cnt_struct + 1) % 2 ^ s.cfg.cntW }
      pos := s.pos + 1 }) ∧
    (classify s.hw.W = .rejCount → exec .rejCount s = .next { s with
      hw := { s.hw with
        W := s.hw.W.drop 1, evt := 5#3, cnt_struct := (s.hw.cnt_struct + 1) % 2 ^ s.cfg.cntW }
      pos := s.pos + 1 })

/-- R83, with the ghost position of R25: REJ_CSUM completes where it is selected; it counts a checksum
reject and no structural one. -/
def Obligations.ChecksumRejectCompletes : Prop :=
  ∀ s : State, classify s.hw.W = .rejCsum → exec .rejCsum s = .next { s with
    hw := { s.hw with
      W := s.hw.W.drop 1, evt := 6#3, cnt_csum := (s.hw.cnt_csum + 1) % 2 ^ s.cfg.cntW }
    pos := s.pos + 1 }

/-- R84, with the ghost position of R25: ACCEPT completes where it is selected, and this is all it does. -/
def Obligations.AcceptCompletes : Prop :=
  ∀ s : State, classify s.hw.W = .valid → exec .accept s = .next { s with
    hw := { s.hw with
      W := s.hw.W.drop ((s.hw.W.getD 3 0#8).toNat + 5)
      FR := {
        start := s.hw.W.getD 2 0#8
        count := s.hw.W.getD 3 0#8
        csum := s.hw.W.getD ((s.hw.W.getD 3 0#8).toNat + 4) 0#8
        pay := Vector.ofFn fun k : Fin 18 =>
          if k.val < (s.hw.W.getD 3 0#8).toNat then s.hw.W.getD (4 + k.val) 0#8 else 0x00#8 }
      imu_valid := true
      imu_short := decide ((s.hw.W.getD 3 0#8).toNat < 18)
      evt := 1#3
      cnt_accept := (s.hw.cnt_accept + 1) % 2 ^ s.cfg.cntW }
    pos := s.pos + ((s.hw.W.getD 3 0#8).toNat + 5) }

/-- R99: after an ACCEPT of a frame with fewer than 18 payload bytes, `imu_short` is 1, and every payload
byte past the frame's count is stored as zero and reads as zero. -/
def Obligations.ShortFrameFieldsReadZero : Prop :=
  ∀ s : State, classify s.hw.W = .valid → (s.hw.W.getD 3 0#8).toNat < 18 →
    ∃ t, exec .accept s = .next t ∧ t.hw.imu_short = true ∧
      (∀ k : Fin 18, (s.hw.W.getD 3 0#8).toNat ≤ k.val → t.hw.FR.pay[k.val] = 0x00#8) ∧
      ∀ p : Pins, (s.hw.W.getD 3 0#8).toNat ≤ p.sel.toNat → p.sel.toNat < 18 →
        (outputs t.hw p).fld.fld_raw = 0x00#8 ∧ (outputs t.hw p).fld.fld_f64 = 0#64

/-! ## Field reads -/

/-- R105 to R110, R114, R116 to R118: the ten reads with divisor 1 complete in every state. That the
outputs are kept in `env.seen` is the model's choice (log 5). -/
def Obligations.RawFieldReadsComplete : Prop :=
  ∀ s : State,
    let raw1 := fun (raw : Byte) =>
      Host.Outcome.next (φ := Fault) (ρ := Refusal)
        { s with env := { s.env with seen := ⟨raw, 0b00#2, false, b2f64 raw.toNat 1, false⟩ } }
    exec .fieldAccX s = raw1 s.hw.FR.pay[0] ∧ exec .fieldAccY s = raw1 s.hw.FR.pay[1] ∧
    exec .fieldAccZ s = raw1 s.hw.FR.pay[2] ∧ exec .fieldGyrX s = raw1 s.hw.FR.pay[3] ∧
    exec .fieldGyrY s = raw1 s.hw.FR.pay[4] ∧ exec .fieldGyrZ s = raw1 s.hw.FR.pay[5] ∧
    exec .fieldCalib s = raw1 s.hw.FR.pay[9] ∧ exec .fieldMagX s = raw1 s.hw.FR.pay[11] ∧
    exec .fieldMagY s = raw1 s.hw.FR.pay[12] ∧ exec .fieldMagZ s = raw1 s.hw.FR.pay[13]

/-- R111 to R113, R115: the four reads with divisor 100 complete in every state. That the outputs are
kept in `env.seen` is the model's choice (log 5). -/
def Obligations.HundredthFieldReadsComplete : Prop :=
  ∀ s : State,
    let raw100 := fun (raw : Byte) =>
      Host.Outcome.next (φ := Fault) (ρ := Refusal)
        { s with env := { s.env with seen := ⟨raw, 0b01#2, true, b2f64 raw.toNat 100, false⟩ } }
    exec .fieldRoll s = raw100 s.hw.FR.pay[6] ∧ exec .fieldPitch s = raw100 s.hw.FR.pay[7] ∧
    exec .fieldYaw s = raw100 s.hw.FR.pay[8] ∧ exec .fieldTemp s = raw100 s.hw.FR.pay[10]

/-- R119 to R122: the four reads with divisor 10000 complete in every state. That the outputs are kept in
`env.seen` is the model's choice (log 5). -/
def Obligations.QuaternionFieldReadsComplete : Prop :=
  ∀ s : State,
    let raw10000 := fun (raw : Byte) =>
      Host.Outcome.next (φ := Fault) (ρ := Refusal)
        { s with env := { s.env with seen := ⟨raw, 0b10#2, true, b2f64 raw.toNat 10000, false⟩ } }
    exec .fieldQ0 s = raw10000 s.hw.FR.pay[14] ∧ exec .fieldQ1 s = raw10000 s.hw.FR.pay[15] ∧
    exec .fieldQ2 s = raw10000 s.hw.FR.pay[16] ∧ exec .fieldQ3 s = raw10000 s.hw.FR.pay[17]

/-- R102: the reserved reads complete in every state with all outputs zero and `sel_err = 1`. That the
outputs are kept in `env.seen` is the model's choice (log 5). -/
def Obligations.ReservedSelectsComplete : Prop :=
  ∀ s : State,
    let zeros := Host.Outcome.next (φ := Fault) (ρ := Refusal)
      { s with env := { s.env with seen := ⟨0x00#8, 0b00#2, false, 0x0000000000000000#64, true⟩ } }
    (∀ lo, exec (.selRsvd18 lo) s = zeros) ∧ (∀ lo, exec (.selRsvd20 lo) s = zeros) ∧
    (∀ lo, exec (.selRsvd24 lo) s = zeros)

/-- R101, R97, R61, R102: the multiplexer, for every state and every select. -/
def Obligations.MultiplexerPresentsSelectedField : Prop :=
  ∀ (h : Hw) (p : Pins),
    (∀ k : Fin 18, p.sel.toNat = k.val →
      (outputs h p).fld.fld_raw = h.FR.pay[k.val] ∧ (outputs h p).fld.sel_err = false ∧
      ((k.val ≤ 5 ∨ k.val = 9 ∨ (11 ≤ k.val ∧ k.val ≤ 13)) →
        (outputs h p).fld.fld_div = 0b00#2 ∧ (outputs h p).fld.fld_is_float = false ∧
        (outputs h p).fld.fld_f64 = b2f64 h.FR.pay[k.val].toNat 1) ∧
      (((6 ≤ k.val ∧ k.val ≤ 8) ∨ k.val = 10) →
        (outputs h p).fld.fld_div = 0b01#2 ∧ (outputs h p).fld.fld_is_float = true ∧
        (outputs h p).fld.fld_f64 = b2f64 h.FR.pay[k.val].toNat 100) ∧
      (14 ≤ k.val →
        (outputs h p).fld.fld_div = 0b10#2 ∧ (outputs h p).fld.fld_is_float = true ∧
        (outputs h p).fld.fld_f64 = b2f64 h.FR.pay[k.val].toNat 10000)) ∧
    (18 ≤ p.sel.toNat → (outputs h p).fld = ⟨0x00#8, 0b00#2, false, 0x0000000000000000#64, true⟩)

/-- R44, R101: for every select code, the field read selected by it shows the consumer what the
multiplexer outputs for that code, and changes neither the hardware nor anything else. That the outputs
are kept in `env.seen` is the model's choice (log 5). -/
def Obligations.FieldReadsShowMultiplexerOutputs : Prop :=
  ∀ (s : State) (p : Pins),
    exec (decodeSel p.sel) s =
      .next { s with env := { s.env with seen := (outputs s.hw p).fld } }

/-- R123: the field outputs depend on `FR` and `sel` only, and no operation but ACCEPT and RESET (and
FRAME, which contains ACCEPT steps) changes them or the flags of the frame register. -/
def Obligations.FieldOutputsChangeOnlyByAcceptAndReset : Prop :=
  (∀ (h g : Hw) (p q : Pins), h.FR = g.FR → p.sel = q.sel → (outputs h p).fld = (outputs g q).fld) ∧
  (∀ (i : Instr) (s t : State), i ≠ .accept → i ≠ .reset → (∀ a b, i ≠ .frame a b) →
    exec i s = .next t →
      t.hw.FR = s.hw.FR ∧ t.hw.imu_valid = s.hw.imu_valid ∧ t.hw.imu_short = s.hw.imu_short ∧
      ∀ p : Pins, (outputs t.hw p).fld = (outputs s.hw p).fld)

/-- R103: for every raw byte and divisor, no binary64 number is closer to `raw / d` than `b2f64` gives,
and any number as close has the same value (no case is a tie). The format and the rounding are the
spec's general knowledge (log 9). -/
def Obligations.ScaledValueIsNearestBinary64 : Prop :=
  ∀ (raw : Byte) (d : Divisor) (b : BitVec 64), f64Exp b ≠ 2047 →
    |f64Value (b2f64 raw.toNat d.value) - (raw.toNat : ℚ) / (d.value : ℚ)|
        ≤ |f64Value b - (raw.toNat : ℚ) / (d.value : ℚ)| ∧
    (|f64Value (b2f64 raw.toNat d.value) - (raw.toNat : ℚ) / (d.value : ℚ)|
        = |f64Value b - (raw.toNat : ℚ) / (d.value : ℚ)| →
      f64Value b = f64Value (b2f64 raw.toNat d.value))

/-- R103, third to fifth points: raw zero gives `+0.0`; every other value is positive and normal; divisor
1 is exact. -/
def Obligations.ScaledValueIsZeroOrPositiveNormal : Prop :=
  ∀ (raw : Byte) (d : Divisor),
    (b2f64 raw.toNat d.value).getLsbD 63 = false ∧
    (raw = 0x00#8 → b2f64 raw.toNat d.value = 0x0000000000000000#64) ∧
    (raw ≠ 0x00#8 → 1 ≤ f64Exp (b2f64 raw.toNat d.value) ∧
      f64Exp (b2f64 raw.toNat d.value) ≤ 2046) ∧
    f64Value (b2f64 raw.toNat 1) = (raw.toNat : ℚ)

/-! ## Frames on the wire -/

/-- R71: FRAME completes in every state. It leaves the candidate pending, as DRAIN does, and touches
neither the parameter nor the environment. That it is one step of the model is the model's choice
(log 6). -/
def Obligations.FrameCompletesAndDrains : Prop :=
  ∀ (start : Byte) (pay : List Byte) (s : State),
    ∃ t, exec (.frame start pay) s = .next t ∧ classify t.hw.W = .pending ∧
      t.cfg = s.cfg ∧ t.env = s.env

/-- R51, R84, R88, R99: a well-formed frame that finds the window empty is accepted whole, and this is
all that changes. That it is one step of the model is the model's choice (log 6). -/
def Obligations.FrameOnEmptyWindowIsAccepted : Prop :=
  ∀ (start : Byte) (pay : List Byte) (s : State),
    start.toNat < 0x2C → start.toNat + pay.length < 0x2C → s.hw.W = [] →
    exec (.frame start pay) s = .next { s with
      hw := { s.hw with
        W := []
        FR := {
          start := start
          count := BitVec.ofNat 8 pay.length
          csum := sum8 ([0xA4#8, 0x03#8, start, BitVec.ofNat 8 pay.length] ++ pay)
          pay := Vector.ofFn fun k : Fin 18 => pay.getD k.val 0x00#8 }
        imu_valid := true
        imu_short := decide (pay.length < 18)
        evt := 1#3
        cnt_accept := (s.hw.cnt_accept + 1) % 2 ^ s.cfg.cntW }
      pos := s.pos + (pay.length + 5) }

/-- R98: after a well-formed frame on an empty window, the outputs for select `k < 18` show payload byte
`k`, zero past the payload, whatever the start byte: two frames with the same payload decode alike. -/
def Obligations.FramePayloadDecodesIndependentOfStart : Prop :=
  ∀ (a b : Byte) (pay : List Byte) (s : State),
    a.toNat + pay.length < 0x2C → b.toNat + pay.length < 0x2C → s.hw.W = [] →
    ∃ t u, exec (.frame a pay) s = .next t ∧ exec (.frame b pay) s = .next u ∧
      ∀ p : Pins, (outputs t.hw p).fld = (outputs u.hw p).fld ∧
        (p.sel.toNat < 18 → (outputs t.hw p).fld.fld_raw = pay.getD p.sel.toNat 0x00#8)

/-- R71, R70: the one step of FRAME ends in the very state that some single clock cycles reach, with neither
control active in any of them, in which the bytes transferred are the frame's bytes in order. That FRAME is
one step of the model is the model's choice (log 6). -/
def Obligations.FrameStepRefinesItsCycles : Prop :=
  ∀ (start : Byte) (pay : List Byte) (s : State),
    ∃ ps : List Pins, (∀ p ∈ ps, p.rst = false ∧ p.sync_clr = false) ∧
      taken ps s = frameBytes start pay ∧
      exec (.frame start pay) s = .next (clockRun ps s)

/-- R52, R53: the length of a frame and the byte that tells it, its bounds, and the frame with count 0. -/
def Obligations.FrameLengthsAreLegal : Prop :=
  (∀ (start : Byte) (pay : List Byte), (Instr.frame start pay).wellFormed = true →
    (frameBytes start pay).length = pay.length + 5 ∧
    ((frameBytes start pay).getD 3 0x00#8).toNat = pay.length ∧
    5 ≤ (frameBytes start pay).length ∧ (frameBytes start pay).length ≤ 48 ∧
    start.toNat ≤ 0x2B ∧ pay.length ≤ 0x2B - start.toNat ∧ pay.length ≤ 43) ∧
  ∀ start : Byte, start.toNat ≤ 0x2B → (Instr.frame start []).wellFormed = true ∧
    frameBytes start [] = [0xA4#8, 0x03#8, start, 0x00#8, 0xA7#8 + start]

/-! ## Encodings -/

/-- Decode and encode agree: for every well-formed instruction, the bytes the encoder writes for it
decode, on its port and under the verdict that selects it, to that instruction with all its operands. The
bytes in which a control word and a select code stand are the model's choice (log 4). -/
def Obligations.DecodeOfEncodeIsIdentity : Prop :=
  ∀ i : Instr, i.wellFormed = true →
    decode (encode i).port (selectingVerdict i) (encode i).bytes = .ok i

/-- The other direction: every control word belongs to the opcode-table row of the operation it selects,
whatever the window; a select code and a frame are the encoding of what they decode to. -/
def Obligations.EveryWordFitsItsOperation : Prop :=
  (∀ (v : Verdict) (w : BitVec 11), (tableRow (decodeCw v w)).fits (.cw w) = true) ∧
  (∀ k : BitVec 5, encode (decodeSel k) = .sel k) ∧
  (∀ (bytes : List Byte) (i : Instr), decodeWire bytes = .ok i →
    i.wellFormed = true ∧ encode i = .wire bytes)

/-- R51: the wire decoder takes exactly the byte sequences with the frame's layout. -/
def Obligations.WireDecoderTakesExactlyFrames : Prop :=
  ∀ bytes : List Byte, (∃ i, decodeWire bytes = .ok i) ↔
    (bytes.length = (bytes.getD 3 0#8).toNat + 5 ∧
      bytes.getD 0 0#8 = 0xA4#8 ∧ bytes.getD 1 0#8 = 0x03#8 ∧ (bytes.getD 2 0#8).toNat < 0x2C ∧
      (bytes.getD 2 0#8).toNat + (bytes.getD 3 0#8).toNat < 0x2C ∧
      bytes.getD ((bytes.getD 3 0#8).toNat + 4) 0#8
        = sum8 (bytes.take ((bytes.getD 3 0#8).toNat + 4)))

/-- A few words decode to what they stand for: the bits of a control word and of a select code are the
spec's (R56, R57, R60), and so is the frame (R51). That a control word stands in two bytes, the lower byte
first, and a select code in one, with the unused bits zero, is the model's choice (log 4). -/
def Obligations.SpecWordsDecodeAsTheyRead : Prop :=
  decode .cw .pending [0x00#8, 0x04#8] = .ok .reset ∧
  decode .cw .rejHdr [0xFF#8, 0x03#8] = .ok .clear ∧
  decode .cw .pending [0xA4#8, 0x01#8] = .ok (.push 0xA4#8) ∧
  decode .cw .pending [0x00#8, 0x00#8] = .ok .idle ∧
  decode .cw .valid [0xA4#8, 0x01#8] = .ok .accept ∧
  decode .cw .rejCsum [0x00#8, 0x00#8] = .ok .rejCsum ∧
  decode .sel .pending [0b00000110#8] = .ok .fieldRoll ∧
  decode .sel .pending [0b00010001#8] = .ok .fieldQ3 ∧
  decode .sel .pending [0b00010100#8] = .ok (.selRsvd20 0#2) ∧
  decode .wire .pending [0xA4#8, 0x03#8, 0x2A#8, 0x01#8, 0x55#8, 0x27#8]
    = .ok (.frame 0x2A#8 [0x55#8])

/-- R57: the operation a cycle selects, row by row, read from the pins; and `in_ready` is 1 exactly where
the cycle selects PUSH or IDLE. -/
def Obligations.OperationSelectionFollowsPriority : Prop :=
  (∀ (h : Hw) (p : Pins), (outputs h p).in_ready = true ↔
    (decodeCw (classify h.W) p.cw = .idle ∨ ∃ b, decodeCw (classify h.W) p.cw = .push b)) ∧
  ∀ (v : Verdict) (p : Pins),
    (p.rst = true → decodeCw v p.cw = .reset) ∧
    (p.rst = false → p.sync_clr = true → decodeCw v p.cw = .clear) ∧
    (p.rst = false → p.sync_clr = false →
      (v = .valid → decodeCw v p.cw = .accept) ∧
      (v = .rejHdr → decodeCw v p.cw = .rejHdr) ∧
      (v = .rejFunc → decodeCw v p.cw = .rejFunc) ∧
      (v = .rejStart → decodeCw v p.cw = .rejStart) ∧
      (v = .rejCount → decodeCw v p.cw = .rejCount) ∧
      (v = .rejCsum → decodeCw v p.cw = .rejCsum) ∧
      (v = .pending → p.in_valid = true → decodeCw v p.cw = .push p.in_byte) ∧
      (v = .pending → p.in_valid = false → decodeCw v p.cw = .idle))

/-! ## Classification -/

/-- R73, R74, R75: when the classification gives each verdict. -/
def Obligations.VerdictConditions : Prop :=
  ∀ W : List Byte,
    let b := fun i : Nat => (W.getD i 0#8).toNat
    let hdr := 1 ≤ W.length ∧ b 0 = 0xA4
    let func := hdr ∧ 2 ≤ W.length ∧ b 1 = 0x03
    let start := func ∧ 3 ≤ W.length ∧ b 2 < 0x2C
    let count := start ∧ 4 ≤ W.length ∧ b 2 + b 3 < 0x2C
    let full := count ∧ b 3 + 5 ≤ W.length
    let sumOk := ((W.take (b 3 + 4)).map BitVec.toNat).sum % 256 = b (b 3 + 4)
    (classify W = .rejHdr ↔ 1 ≤ W.length ∧ b 0 ≠ 0xA4) ∧
    (classify W = .rejFunc ↔ hdr ∧ 2 ≤ W.length ∧ b 1 ≠ 0x03) ∧
    (classify W = .rejStart ↔ func ∧ 3 ≤ W.length ∧ 0x2C ≤ b 2) ∧
    (classify W = .rejCount ↔ start ∧ 4 ≤ W.length ∧ 0x2C ≤ b 2 + b 3) ∧
    (classify W = .rejCsum ↔ full ∧ ¬ sumOk) ∧
    (classify W = .valid ↔ full ∧ sumOk) ∧
    (classify W = .pending ↔ W.length = 0 ∨ (hdr ∧ W.length < 2) ∨ (func ∧ W.length < 3) ∨
      (start ∧ W.length < 4) ∨ (count ∧ W.length < b 3 + 5))

/-- R76: a verdict once reached is not changed by later bytes, and bytes past the candidate do not
matter. -/
def Obligations.VerdictIsStable : Prop :=
  (∀ W X : List Byte, classify W ≠ .pending → classify (W ++ X) = classify W) ∧
  (∀ W : List Byte, 4 ≤ W.length →
    classify W = classify (W.take (min W.length ((W.getD 3 0#8).toNat + 5))))

/-- R95: a pending window leaves room for one more byte. -/
def Obligations.PendingWindowHasRoom : Prop :=
  ∀ W : List Byte, classify W = .pending → W.length ≤ 47

/-- R51, R76: a window is VALID exactly when it begins with a well-formed frame. -/
def Obligations.ValidWindowBeginsWithFrame : Prop :=
  ∀ W : List Byte, classify W = .valid ↔
    ∃ (start : Byte) (pay rest : List Byte),
      (Instr.frame start pay).wellFormed = true ∧ W = frameBytes start pay ++ rest

/-! ## Steps -/

/-- A step runs the operation that what is driven selects. The schedule, the free pins where it is empty,
and the treatment of bytes that are no frame are the model's choices (logs 1, 2, 12). -/
def Obligations.StepRunsSelectedOperation : Prop :=
  (∀ (s : State) (p : Pins) (ds : List Drive), s.env.drive = .cycle p :: ds →
    step s = exec (decodeCw (classify s.hw.W) p.cw) { s with env := { s.env with drive := ds } }) ∧
  (∀ (s : State) (k : BitVec 5) (ds : List Drive), s.env.drive = .select k :: ds →
    step s = exec (decodeSel k) { s with env := { s.env with drive := ds } }) ∧
  (∀ (s : State) (i : Instr) (ds : List Drive), i.wellFormed = true →
    s.env.drive = .wire (encode i).bytes :: ds → (encode i).port = .wire →
    step s = exec i { s with env := { s.env with drive := ds } }) ∧
  (∀ (s : State) (bytes : List Byte) (ds : List Drive), s.env.drive = .wire bytes :: ds →
    isFrame bytes = false →
    step s = .next (feed bytes { s with env := { s.env with drive := ds } })) ∧
  (∀ s : State, s.env.drive = [] →
    step s = exec (decodeCw (classify s.hw.W) (freePins s.env.tick).cw)
      { s with env := { s.env with tick := s.env.tick + 1 } })

/-- R125: no step raises an exception or stops. -/
def Obligations.EveryStepCompletes : Prop :=
  ∀ s : State, ∃ t, step s = .next t

/-- R30, R14: no instruction writes the parameter, and none touches the schedule; only the field reads
write what the consumer saw. -/
def Obligations.InstructionsLeaveSurroundings : Prop :=
  ∀ (i : Instr) (s t : State), exec i s = .next t →
    t.cfg = s.cfg ∧ t.env.drive = s.env.drive ∧ t.env.tick = s.env.tick ∧
    ((encode i).port ≠ .sel → t.env = s.env)

/-- R78: every reject removes exactly the byte at the scan origin. -/
def Obligations.RejectRemovesExactlyOneByte : Prop :=
  ∀ (s : State) (p : Pins) (ds : List Drive), s.env.drive = .cycle p :: ds →
    p.rst = false → p.sync_clr = false → classify s.hw.W ≠ .pending → classify s.hw.W ≠ .valid →
    ∃ (b : Byte) (t : State), step s = .next t ∧ s.hw.W = b :: t.hw.W ∧ t.pos = s.pos + 1

/-- R59: a byte is transferred exactly in a cycle with `in_valid = 1` and `in_ready = 1`; otherwise the
window only loses bytes at its front. -/
def Obligations.TransferExactlyOnHandshake : Prop :=
  ∀ (s : State) (p : Pins) (ds : List Drive), s.env.drive = .cycle p :: ds →
    ∃ t, step s = .next t ∧
      (p.in_valid = true → (outputs s.hw p).in_ready = true → t.hw.W = s.hw.W ++ [p.in_byte]) ∧
      (p.in_valid = false ∨ (outputs s.hw p).in_ready = false → ∃ n, t.hw.W = s.hw.W.drop n)

/-- R23: after any cycle, `evt` is the code of the operation the cycle performed, and never 7. -/
def Obligations.EventReportsTheStep : Prop :=
  ∀ (s : State) (p : Pins) (ds : List Drive), s.env.drive = .cycle p :: ds →
    ∃ t, step s = .next t ∧ t.hw.evt ≠ 7#3 ∧
      (decodeCw (classify s.hw.W) p.cw = .accept → t.hw.evt = 1#3) ∧
      (decodeCw (classify s.hw.W) p.cw = .rejHdr → t.hw.evt = 2#3) ∧
      (decodeCw (classify s.hw.W) p.cw = .rejFunc → t.hw.evt = 3#3) ∧
      (decodeCw (classify s.hw.W) p.cw = .rejStart → t.hw.evt = 4#3) ∧
      (decodeCw (classify s.hw.W) p.cw = .rejCount → t.hw.evt = 5#3) ∧
      (decodeCw (classify s.hw.W) p.cw = .rejCsum → t.hw.evt = 6#3) ∧
      ((decodeCw (classify s.hw.W) p.cw = .idle ∨ decodeCw (classify s.hw.W) p.cw = .clear ∨
        decodeCw (classify s.hw.W) p.cw = .reset ∨
        ∃ b, decodeCw (classify s.hw.W) p.cw = .push b) → t.hw.evt = 0#3)

/-- R24: each counter adds 1 modulo `2 ^ CNT_W` in the cycle whose event it counts, stays in every other
cycle, and is cleared only by RESET. -/
def Obligations.CountersCountTheirEvents : Prop :=
  ∀ (s : State) (p : Pins) (ds : List Drive), s.env.drive = .cycle p :: ds →
    ∃ t, step s = .next t ∧
      (p.rst = true → t.hw.cnt_accept = 0 ∧ t.hw.cnt_struct = 0 ∧ t.hw.cnt_csum = 0) ∧
      (p.rst = false →
        t.hw.cnt_accept =
          (if t.hw.evt = 1#3 then (s.hw.cnt_accept + 1) % 2 ^ s.cfg.cntW else s.hw.cnt_accept) ∧
        t.hw.cnt_struct =
          (if t.hw.evt = 2#3 ∨ t.hw.evt = 3#3 ∨ t.hw.evt = 4#3 ∨ t.hw.evt = 5#3
            then (s.hw.cnt_struct + 1) % 2 ^ s.cfg.cntW else s.hw.cnt_struct) ∧
        t.hw.cnt_csum =
          (if t.hw.evt = 6#3 then (s.hw.cnt_csum + 1) % 2 ^ s.cfg.cntW else s.hw.cnt_csum))

/-- R21: `imu_valid` is 0 after RESET, 1 after ACCEPT, and no other instruction clears it; while it is 0
in a state that meets the invariant, every field reads zero. -/
def Obligations.ImuValidLastsUntilReset : Prop :=
  (∀ s : State, ∃ t, exec .reset s = .next t ∧ t.hw.imu_valid = false) ∧
  (∀ s : State, classify s.hw.W = .valid →
    ∃ t, exec .accept s = .next t ∧ t.hw.imu_valid = true) ∧
  (∀ s : State, ∃ t, exec .clear s = .next t ∧ t.hw.imu_valid = s.hw.imu_valid) ∧
  (∀ (i : Instr) (s t : State), i ≠ .reset → exec i s = .next t → s.hw.imu_valid = true →
    t.hw.imu_valid = true) ∧
  (∀ (s : State) (p : Pins), Inv s → s.hw.imu_valid = false →
    (outputs s.hw p).fld.fld_raw = 0x00#8 ∧ (outputs s.hw p).fld.fld_f64 = 0#64)

/-- R128, R44: `link_down` passes the input through, and neither it nor the select input of a cycle has
any effect on the state. -/
def Obligations.LinkAndSelectHaveNoEffectOnState : Prop :=
  (∀ (h : Hw) (p : Pins), (outputs h p).link_down = p.link_down_i) ∧
  (∀ (s u : State) (p q : Pins) (ds : List Drive), s.env.drive = .cycle p :: ds →
    u = { s with env := { s.env with drive := .cycle q :: ds } } →
    p.rst = q.rst → p.sync_clr = q.sync_clr → p.in_valid = q.in_valid → p.in_byte = q.in_byte →
    step s = step u)

/-- R92: a structurally valid candidate whose checksum is off by one is rejected by one REJ_CSUM, and the
scan goes on one byte past its header. -/
def Obligations.ChecksumOffByOneIsRejected : Prop :=
  ∀ (start k : Byte) (pay rest : List Byte) (s : State) (p : Pins) (ds : List Drive),
    (Instr.frame start pay).wellFormed = true →
    (k = sum8 (frameBody start pay) + 1#8 ∨ k = sum8 (frameBody start pay) - 1#8) →
    s.hw.W = frameBody start pay ++ k :: rest →
    s.env.drive = .cycle p :: ds → p.rst = false → p.sync_clr = false →
    ∃ t, step s = .next t ∧ t.hw.evt = 6#3 ∧
      t.hw.cnt_csum = (s.hw.cnt_csum + 1) % 2 ^ s.cfg.cntW ∧
      t.hw.W = s.hw.W.drop 1 ∧ t.pos = s.pos + 1 ∧ t.hw.FR = s.hw.FR

/-! ## Invariants -/

/-- The invariant holds at reset. -/
def Obligations.InvariantHoldsAtReset : Prop :=
  Inv State.reset ∧ ChecksumHeld State.reset

/-- From every state that meets the invariant, whatever is driven, a step leads to one that meets it. -/
def Obligations.StepKeepsInvariant : Prop :=
  ∀ s t : State, Inv s → step s = .next t → Inv t

/-- From every state whose frame register holds a right checksum, whatever is driven, a step leads to
one whose frame register does. -/
def Obligations.StepKeepsChecksumHeld : Prop :=
  ∀ s t : State, ChecksumHeld s → step s = .next t → ChecksumHeld t

/-- R33: what no reachable state has. -/
def Obligations.ReachableStatesStayInBounds : Prop :=
  ∀ s : State, Reachable s →
    s.hw.FR.count.toNat ≤ 43 ∧ s.hw.FR.start.toNat + s.hw.FR.count.toNat < 0x2C ∧
    s.hw.W.length ≤ 48 ∧ s.hw.evt ≠ 7#3

/-- R29: in every state that meets the invariant, the 6-bit output `win_len` is the window's length. -/
def Obligations.WindowLengthOutputIsExact : Prop :=
  ∀ (s : State) (p : Pins), Inv s → (outputs s.hw p).win_len.toNat = s.hw.W.length

/-! ## Whole streams -/

/-- R87: with neither control active, a resolution chain ends within `|W|` cycles, and each cycle before
its end is a RESOLVE step. -/
def Obligations.ResolutionChainEndsWithinWindow : Prop :=
  ∀ (s : State) (ps : List Pins), (∀ p ∈ ps, p.rst = false ∧ p.sync_clr = false) →
    s.hw.W.length ≤ ps.length →
    ∃ k, k ≤ s.hw.W.length ∧ classify (clockRun (ps.take k) s).hw.W = .pending ∧
      resolveSteps (ps.take k) s = k

/-- R91: over any cycles, RESOLVE steps never outnumber the bytes pushed and those in the window at the
start. -/
def Obligations.ResolvesNeverOutnumberBytes : Prop :=
  ∀ (ps : List Pins) (s : State),
    resolveSteps ps s ≤ s.hw.W.length + (taken ps s).length

/-- R91: bytes without a header marker, delivered to an empty window, are all taken and all rejected: the
window is empty again, nothing is accepted, and each byte is counted once. That the delivery is one
step of the model is the model's choice (log 12). -/
def Obligations.GarbageIsRejectedWithoutHanging : Prop :=
  ∀ (s : State) (G : List Byte) (ds : List Drive), s.env.drive = .wire G :: ds →
    (∀ b ∈ G, b ≠ 0xA4#8) → s.hw.W = [] → s.hw.cnt_struct < 2 ^ s.cfg.cntW →
    ∃ t, step s = .next t ∧ t.hw.W = [] ∧ t.hw.FR = s.hw.FR ∧
      t.hw.cnt_accept = s.hw.cnt_accept ∧ t.hw.cnt_csum = s.hw.cnt_csum ∧
      t.hw.cnt_struct = (s.hw.cnt_struct + G.length) % 2 ^ s.cfg.cntW ∧
      t.pos = s.pos + G.length

/-- R88: from an empty window, over any cycles without RESET and CLEAR that end with a pending
candidate, the frames accepted are exactly those of the parse of the stream transferred, in order and
at their positions, and the window holds the unparsed rest. Chunking and IDLE cycles do not matter. The
parse of a longer stream extends the parse of the shorter one. -/
def Obligations.AcceptedFramesAreTheStreamParse : Prop :=
  (∀ (ps : List Pins) (s : State), (∀ p ∈ ps, p.rst = false ∧ p.sync_clr = false) →
    s.hw.W = [] → s.pos = 0 → classify (clockRun ps s).hw.W = .pending →
    accepted ps s = (parse (taken ps s)).1 ∧
    (clockRun ps s).hw.W = (taken ps s).drop (parse (taken ps s)).2 ∧
    (clockRun ps s).pos = (parse (taken ps s)).2) ∧
  ∀ S T : List Byte, ∃ rest, (parse (S ++ T)).1 = (parse S).1 ++ rest

/-- R90: no frame is found in a buffer shorter than 5 bytes. -/
def Obligations.ShortBufferHoldsNoFrame : Prop :=
  ∀ S : List Byte, S.length < 5 → (parse S).1 = []
end

