-- ==== Sys2Proof/Laws/Config.lean ====
section
/-! SUPPORT. The values of the named constants, for arithmetic. -/

namespace Sys2Proof.Config

@[simp] theorem OFF_HDR_eq : OFF_HDR = 0 := rfl
@[simp] theorem OFF_FUNC_eq : OFF_FUNC = 1 := rfl
@[simp] theorem OFF_START_eq : OFF_START = 2 := rfl
@[simp] theorem OFF_COUNT_eq : OFF_COUNT = 3 := rfl
@[simp] theorem OFF_PAY_eq : OFF_PAY = 4 := rfl
@[simp] theorem REG_LIMIT_eq : REG_LIMIT = 44 := rfl
@[simp] theorem MIN_LEN_eq : MIN_LEN = 5 := rfl
@[simp] theorem MAX_COUNT_eq : MAX_COUNT = 43 := rfl
@[simp] theorem MAX_LEN_eq : MAX_LEN = 48 := rfl
@[simp] theorem WIN_DEPTH_eq : WIN_DEPTH = 48 := rfl
@[simp] theorem NFIELDS_eq : NFIELDS = 18 := rfl
@[simp] theorem DIV_RAW_eq : DIV_RAW = 1 := rfl
@[simp] theorem DIV_DEGREES_eq : DIV_DEGREES = 100 := rfl
@[simp] theorem DIV_UNIT_eq : DIV_UNIT = 10000 := rfl

end Sys2Proof.Config
end

