-- ==== Sys2Proof/Laws/State.lean ====
section
/-! SUPPORT. One lemma per field per update of the state, so that no proof unfolds a record update. -/

namespace Sys2Proof.Machine

@[simp] theorem setHw_hw (s : State) (h : Hw) : (s.setHw h).hw = h := rfl
@[simp] theorem setHw_cfg (s : State) (h : Hw) : (s.setHw h).cfg = s.cfg := rfl
@[simp] theorem setHw_pos (s : State) (h : Hw) : (s.setHw h).pos = s.pos := rfl
@[simp] theorem setHw_env (s : State) (h : Hw) : (s.setHw h).env = s.env := rfl

@[simp] theorem setPos_hw (s : State) (n : Nat) : (s.setPos n).hw = s.hw := rfl
@[simp] theorem setPos_cfg (s : State) (n : Nat) : (s.setPos n).cfg = s.cfg := rfl
@[simp] theorem setPos_pos (s : State) (n : Nat) : (s.setPos n).pos = n := rfl
@[simp] theorem setPos_env (s : State) (n : Nat) : (s.setPos n).env = s.env := rfl

@[simp] theorem setSeen_hw (s : State) (o : FieldOut) : (s.setSeen o).hw = s.hw := rfl
@[simp] theorem setSeen_cfg (s : State) (o : FieldOut) : (s.setSeen o).cfg = s.cfg := rfl
@[simp] theorem setSeen_pos (s : State) (o : FieldOut) : (s.setSeen o).pos = s.pos := rfl
@[simp] theorem setSeen_seen (s : State) (o : FieldOut) : (s.setSeen o).env.seen = o := rfl
@[simp] theorem setSeen_drive (s : State) (o : FieldOut) :
    (s.setSeen o).env.drive = s.env.drive := rfl
@[simp] theorem setSeen_tick (s : State) (o : FieldOut) : (s.setSeen o).env.tick = s.env.tick := rfl

@[simp] theorem setDrive_hw (s : State) (ds : List Drive) : (s.setDrive ds).hw = s.hw := rfl
@[simp] theorem setDrive_cfg (s : State) (ds : List Drive) : (s.setDrive ds).cfg = s.cfg := rfl
@[simp] theorem setDrive_pos (s : State) (ds : List Drive) : (s.setDrive ds).pos = s.pos := rfl
@[simp] theorem setDrive_drive (s : State) (ds : List Drive) :
    (s.setDrive ds).env.drive = ds := rfl
@[simp] theorem setDrive_tick (s : State) (ds : List Drive) :
    (s.setDrive ds).env.tick = s.env.tick := rfl
@[simp] theorem setDrive_seen (s : State) (ds : List Drive) :
    (s.setDrive ds).env.seen = s.env.seen := rfl
@[simp] theorem setDrive_setDrive (s : State) (ds es : List Drive) :
    (s.setDrive ds).setDrive es = s.setDrive es := rfl
@[simp] theorem setDrive_self (s : State) : s.setDrive s.env.drive = s := rfl

@[simp] theorem reset_W : Hw.reset.W = [] := rfl
@[simp] theorem reset_FR : Hw.reset.FR = FrameReg.reset := rfl
@[simp] theorem reset_imu_valid : Hw.reset.imu_valid = false := rfl
@[simp] theorem reset_imu_short : Hw.reset.imu_short = false := rfl
@[simp] theorem reset_evt : Hw.reset.evt = 0#3 := rfl
@[simp] theorem reset_cnt_accept : Hw.reset.cnt_accept = 0 := rfl
@[simp] theorem reset_cnt_struct : Hw.reset.cnt_struct = 0 := rfl
@[simp] theorem reset_cnt_csum : Hw.reset.cnt_csum = 0 := rfl

end Sys2Proof.Machine
end

