-- ==== Sys2Proof/Laws/Ops.lean ====
section
/-! SUPPORT. For each shared operation, once, all it does: its new hardware state and position, and that
the parameter and the environment stay. -/

namespace Sys2Proof.Machine

theorem countUp_lt (w n : Nat) : countUp w n < 2 ^ w := Nat.mod_lt _ (Nat.two_pow_pos w)

theorem countUp_eq (w n : Nat) : countUp w n = (n + 1) % 2 ^ w := rfl

/-- The parts of a state no operation of the hardware writes. -/
def SameOutside (s t : State) : Prop := t.cfg = s.cfg ∧ t.env = s.env

theorem SameOutside.refl (s : State) : SameOutside s s := ⟨rfl, rfl⟩

theorem SameOutside.trans {s t u : State} (h : SameOutside s t) (k : SameOutside t u) :
    SameOutside s u := ⟨k.1.trans h.1, k.2.trans h.2⟩

@[simp] theorem writeEvent_hw (c : BitVec 3) (s : State) :
    (writeEvent c s).hw = { s.hw with evt := c } := rfl
@[simp] theorem writeEvent_pos (c : BitVec 3) (s : State) : (writeEvent c s).pos = s.pos := rfl
theorem writeEvent_outside (c : BitVec 3) (s : State) : SameOutside s (writeEvent c s) := ⟨rfl, rfl⟩

@[simp] theorem appendByte_hw (b : Byte) (s : State) :
    (appendByte b s).hw = { s.hw with W := s.hw.W ++ [b], evt := evtNone } := rfl
@[simp] theorem appendByte_pos (b : Byte) (s : State) : (appendByte b s).pos = s.pos := rfl
theorem appendByte_outside (b : Byte) (s : State) : SameOutside s (appendByte b s) := ⟨rfl, rfl⟩

@[simp] theorem emptyWindow_hw (s : State) :
    (emptyWindow s).hw = { s.hw with W := [], evt := evtNone } := rfl
@[simp] theorem emptyWindow_pos (s : State) :
    (emptyWindow s).pos = s.pos + s.hw.W.length := rfl
theorem emptyWindow_outside (s : State) : SameOutside s (emptyWindow s) := ⟨rfl, rfl⟩

@[simp] theorem resetAll_hw (s : State) : (resetAll s).hw = Hw.reset := rfl
@[simp] theorem resetAll_pos (s : State) : (resetAll s).pos = 0 := rfl
theorem resetAll_outside (s : State) : SameOutside s (resetAll s) := ⟨rfl, rfl⟩

@[simp] theorem rejectStructural_hw (c : BitVec 3) (s : State) :
    (rejectStructural c s).hw =
      { s.hw with
        W := s.hw.W.drop 1
        evt := c
        cnt_struct := countUp s.cfg.cntW s.hw.cnt_struct } := rfl
@[simp] theorem rejectStructural_pos (c : BitVec 3) (s : State) :
    (rejectStructural c s).pos = s.pos + 1 := rfl
theorem rejectStructural_outside (c : BitVec 3) (s : State) :
    SameOutside s (rejectStructural c s) := ⟨rfl, rfl⟩

@[simp] theorem rejectChecksum_hw (c : BitVec 3) (s : State) :
    (rejectChecksum c s).hw =
      { s.hw with
        W := s.hw.W.drop 1
        evt := c
        cnt_csum := countUp s.cfg.cntW s.hw.cnt_csum } := rfl
@[simp] theorem rejectChecksum_pos (c : BitVec 3) (s : State) :
    (rejectChecksum c s).pos = s.pos + 1 := rfl
theorem rejectChecksum_outside (c : BitVec 3) (s : State) :
    SameOutside s (rejectChecksum c s) := ⟨rfl, rfl⟩

@[simp] theorem acceptFrame_hw (s : State) :
    (acceptFrame s).hw =
      { s.hw with
        W := s.hw.W.drop (frameLen s.hw.W)
        FR := loadFrame s.hw.W
        imu_valid := true
        imu_short := shortFlag (byteAt s.hw.W Config.OFF_COUNT)
        evt := evtAccept
        cnt_accept := countUp s.cfg.cntW s.hw.cnt_accept } := rfl
@[simp] theorem acceptFrame_pos (s : State) :
    (acceptFrame s).pos = s.pos + frameLen s.hw.W := rfl
theorem acceptFrame_outside (s : State) : SameOutside s (acceptFrame s) := ⟨rfl, rfl⟩

@[simp] theorem loadFrame_start (W : List Byte) : (loadFrame W).start = byteAt W Config.OFF_START := rfl
@[simp] theorem loadFrame_count (W : List Byte) : (loadFrame W).count = byteAt W Config.OFF_COUNT := rfl
@[simp] theorem loadFrame_csum (W : List Byte) :
    (loadFrame W).csum = byteAt W (frameLen W - 1) := rfl

theorem loadFrame_pay (W : List Byte) (k : Nat) (h : k < Config.NFIELDS) :
    (loadFrame W).pay[k] = if k < (byteAt W Config.OFF_COUNT).toNat then byteAt W (Config.OFF_PAY + k) else 0x00#8 := by
  simp [loadFrame]

@[simp] theorem seeField_hw (f : Field) (s : State) : (seeField f s).hw = s.hw := rfl
@[simp] theorem seeField_pos (f : Field) (s : State) : (seeField f s).pos = s.pos := rfl
@[simp] theorem seeField_cfg (f : Field) (s : State) : (seeField f s).cfg = s.cfg := rfl
@[simp] theorem seeField_seen (f : Field) (s : State) :
    (seeField f s).env.seen = offsetOut s.hw.FR (fieldOffset f) := rfl
@[simp] theorem seeField_drive (f : Field) (s : State) :
    (seeField f s).env.drive = s.env.drive := rfl
@[simp] theorem seeField_tick (f : Field) (s : State) : (seeField f s).env.tick = s.env.tick := rfl

/-- RESOLVE is one of the operations of R58, by the verdict. -/
theorem resolve_cases (s : State) :
    (classify s.hw.W = .pending ∧ resolve s = s) ∨
    (classify s.hw.W = .valid ∧ resolve s = acceptFrame s) ∨
    (classify s.hw.W = .rejCsum ∧ resolve s = rejectChecksum evtRejCsum s) ∨
    ∃ c, (c = evtRejHdr ∨ c = evtRejFunc ∨ c = evtRejStart ∨ c = evtRejCount) ∧
      classify s.hw.W ≠ .pending ∧ resolve s = rejectStructural c s := by
  unfold resolve
  cases classify s.hw.W <;> simp

theorem resolve_outside (s : State) : SameOutside s (resolve s) := by
  obtain ⟨-, h⟩ | ⟨-, h⟩ | ⟨-, h⟩ | ⟨c, -, -, h⟩ := resolve_cases s <;> rw [h]
  · exact SameOutside.refl s
  · exact acceptFrame_outside s
  · exact rejectChecksum_outside _ s
  · exact rejectStructural_outside c s

theorem resolveAll_outside (n : Nat) : ∀ s : State, SameOutside s (resolveAll n s) := by
  induction n with
  | zero => exact SameOutside.refl
  | succ n ih =>
    intro s
    unfold resolveAll
    split
    · exact SameOutside.refl s
    · exact (resolve_outside s).trans (ih _)

theorem drain_outside (s : State) : SameOutside s (drain s) := resolveAll_outside _ s

theorem holdPush_outside (b : Byte) (s : State) : SameOutside s (holdPush b s) :=
  (drain_outside s).trans (appendByte_outside b _)

theorem feed_outside (bytes : List Byte) (s : State) : SameOutside s (feed bytes s) := by
  refine SameOutside.trans ?_ (drain_outside _)
  induction bytes generalizing s with
  | nil => exact SameOutside.refl s
  | cons b rest ih => exact (holdPush_outside b s).trans (ih _)

end Sys2Proof.Machine
end

