-- ==== Sys2Proof/Laws/Classify.lean ====
section
/-! SUPPORT. Small facts of bytes, candidate lengths and the classification. -/

namespace Sys2Proof.Machine

@[simp] theorem byteAt_cons_zero (b : Byte) (W : List Byte) : byteAt (b :: W) 0 = b := rfl

@[simp] theorem byteAt_cons_succ (b : Byte) (W : List Byte) (i : Nat) :
    byteAt (b :: W) (i + 1) = byteAt W i := rfl

theorem byteAt_append_left {W : List Byte} {i : Nat} (X : List Byte) (h : i < W.length) :
    byteAt (W ++ X) i = byteAt W i := by
  simp [byteAt, List.getD, List.getElem?_append_left h]

theorem frameLen_eq (W : List Byte) : frameLen W = (byteAt W 3).toNat + 5 := rfl

theorem five_le_frameLen (W : List Byte) : 5 ≤ frameLen W := by
  simp [frameLen]

theorem frameLen_append {W : List Byte} (X : List Byte) (h : 4 ≤ W.length) :
    frameLen (W ++ X) = frameLen W := by
  rw [frameLen_eq, frameLen_eq, byteAt_append_left X (by omega)]

@[simp] theorem classify_nil : classify [] = .pending := rfl

@[simp] theorem sum8_nil : sum8 [] = 0#8 := rfl

theorem sum8_cons (b : Byte) (S : List Byte) : sum8 (b :: S) = b + sum8 S := by
  simp [sum8, BitVec.ofNat_add]

theorem sum8_append (S T : List Byte) : sum8 (S ++ T) = sum8 S + sum8 T := by
  simp [sum8, BitVec.ofNat_add]

end Sys2Proof.Machine

namespace Sys2Proof

open Sys2Proof.Machine

/-- The decode table, read by name: the field at the offset of `f` is `f`. -/
@[simp] theorem decodeTable_fieldOffset (f : Field) : decodeTable[fieldOffset f].1 = f := by
  cases f <;> rfl

/-- The decode table, read by place: the offset of the field at place `k` is `k`, so no field stands in
it twice. -/
theorem fieldOffset_decodeTable : ∀ k : Fin Config.NFIELDS, fieldOffset decodeTable[k].1 = k := by
  decide

/-- A field's select code decodes to the read of that field (R60). -/
theorem decodeSel_fieldSel (f : Field) : decodeSel (fieldSel f) = fieldRead f := by
  cases f <;> rfl

@[simp] theorem frameBody_length (start : Byte) (pay : List Byte) :
    (frameBody start pay).length = pay.length + 4 := rfl

theorem frameBytes_length (start : Byte) (pay : List Byte) :
    (frameBytes start pay).length = pay.length + 5 := by
  simp [frameBytes]

/-! The layout of `frameBytes`, read at the frame offsets of R51. -/

theorem frameBytes_header (start : Byte) (pay : List Byte) :
    (frameBytes start pay).getD Config.OFF_HDR 0#8 = Config.HDR := rfl

theorem frameBytes_function (start : Byte) (pay : List Byte) :
    (frameBytes start pay).getD Config.OFF_FUNC 0#8 = Config.FUNC := rfl

@[simp] theorem frameBytes_start (start : Byte) (pay : List Byte) :
    frameStart (frameBytes start pay) = start := rfl

theorem frameBytes_count (start : Byte) {pay : List Byte} (h : pay.length < 256) :
    frameCount (frameBytes start pay) = pay.length := by
  show (BitVec.ofNat 8 pay.length).toNat = pay.length
  simpa using h

theorem frameBytes_payload (start : Byte) (pay : List Byte) :
    ((frameBytes start pay).drop Config.OFF_PAY).take pay.length = pay := by
  simp [frameBytes, frameBody]

theorem frameBytes_checksum (start : Byte) {pay : List Byte} (h : pay.length < 256) :
    checksumOk (frameBytes start pay) = true := by
  have e : Config.OFF_PAY + pay.length = (frameBody start pay).length := by simp [Nat.add_comm]
  simp only [checksumOk, frameBytes_count start h, e, decide_eq_true_eq]
  rw [frameBytes, List.take_left, List.getD_append_right _ _ _ _ le_rfl, Nat.sub_self]
  rfl

end Sys2Proof
end

