-- ==== Sys2Proof/Laws/PerInstr.lean ====
section
/-! SUPPORT. Per instruction: the encoder's word belongs to the instruction's own row of the opcode
table. -/

namespace Sys2Proof.Laws.EncodingMatchesTable

/-- The word of a well-formed instruction fits its row of the opcode table. -/
def Statement (i : Instr) : Prop :=
  i.wellFormed = true → (tableRow i).fits (encode i) = true

theorem reset : Statement .reset := fun _ => rfl
theorem clear : Statement .clear := fun _ => rfl
theorem accept : Statement .accept := fun _ => rfl
theorem rejHdr : Statement .rejHdr := fun _ => rfl
theorem rejFunc : Statement .rejFunc := fun _ => rfl
theorem rejStart : Statement .rejStart := fun _ => rfl
theorem rejCount : Statement .rejCount := fun _ => rfl
theorem rejCsum : Statement .rejCsum := fun _ => rfl
theorem idle : Statement .idle := fun _ => rfl
theorem fieldAccX : Statement .fieldAccX := fun _ => rfl
theorem fieldAccY : Statement .fieldAccY := fun _ => rfl
theorem fieldAccZ : Statement .fieldAccZ := fun _ => rfl
theorem fieldGyrX : Statement .fieldGyrX := fun _ => rfl
theorem fieldGyrY : Statement .fieldGyrY := fun _ => rfl
theorem fieldGyrZ : Statement .fieldGyrZ := fun _ => rfl
theorem fieldRoll : Statement .fieldRoll := fun _ => rfl
theorem fieldPitch : Statement .fieldPitch := fun _ => rfl
theorem fieldYaw : Statement .fieldYaw := fun _ => rfl
theorem fieldCalib : Statement .fieldCalib := fun _ => rfl
theorem fieldTemp : Statement .fieldTemp := fun _ => rfl
theorem fieldMagX : Statement .fieldMagX := fun _ => rfl
theorem fieldMagY : Statement .fieldMagY := fun _ => rfl
theorem fieldMagZ : Statement .fieldMagZ := fun _ => rfl
theorem fieldQ0 : Statement .fieldQ0 := fun _ => rfl
theorem fieldQ1 : Statement .fieldQ1 := fun _ => rfl
theorem fieldQ2 : Statement .fieldQ2 := fun _ => rfl
theorem fieldQ3 : Statement .fieldQ3 := fun _ => rfl

theorem push (b : Byte) : Statement (.push b) := by
  intro _
  revert b
  decide

theorem selRsvd18 (lo : BitVec 1) : Statement (.selRsvd18 lo) := by
  intro _
  revert lo
  decide

theorem selRsvd20 (lo : BitVec 2) : Statement (.selRsvd20 lo) := by
  intro _
  revert lo
  decide

theorem selRsvd24 (lo : BitVec 3) : Statement (.selRsvd24 lo) := by
  intro _
  revert lo
  decide

theorem frame (start : Byte) (pay : List Byte) : Statement (.frame start pay) := by
  intro h
  simp only [Instr.wellFormed, Bool.and_eq_true, decide_eq_true_eq, Config.REG_LIMIT] at h
  have hc : pay.length < 256 := by omega
  simp only [tableRow, TableRow.fits, encode, isFrame, frameBytes_length, frameBytes_count start hc,
    frameBytes_checksum start hc, frameBytes_header, frameBytes_function, frameBytes_start, h]
  simp

end Sys2Proof.Laws.EncodingMatchesTable
end

