-- ==== Sys2Proof/Tests/Slice0.lean ====
section
/-! SUPPORT. Tests of single steps and decodings, expected results from 95_test_vectors.md and the spec's
encodings, and the witnesses that meet the hypotheses of the statements. -/

namespace Sys2Proof.Tests

open Sys2Proof.Machine

/-- The reset state with the window `W`. -/
def win (W : List Byte) : State := State.reset.setHw { Hw.reset with W := W }

/-- `s` with one thing driven next. -/
def drives (d : Drive) (s : State) : State := s.setDrive [d]

/-- The pins of a control word. -/
def cwPins (w : BitVec 11) : Pins := Pins.ofCw w

/-- The next state, if there is one. -/
def nextOf (o : Host.Outcome State Fault Refusal) : Option State :=
  match o with
  | .next t => some t
  | .fault _ => none
  | .refused _ => none

/-- The hardware state after one cycle with the control word `w` from window `W`. -/
def hwAfter (w : BitVec 11) (W : List Byte) : Option Hw :=
  (nextOf (step (drives (.cycle (cwPins w)) (win W)))).map State.hw

/-- The reset state with one payload byte of `FR` set. -/
def withPay (k : Fin 18) (b : Byte) : State :=
  State.reset.setHw { Hw.reset with FR := { FrameReg.reset with pay := FrameReg.reset.pay.set k.val b } }

/-- What a field read shows: raw, divisor code, float flag, value, error. -/
def shows (i : Instr) (s : State) : Option (Nat × Nat × Bool × Nat × Bool) :=
  (nextOf (exec i s)).map fun t =>
    (t.env.seen.fld_raw.toNat, t.env.seen.fld_div.toNat, t.env.seen.fld_is_float,
      t.env.seen.fld_f64.toNat, t.env.seen.sel_err)

/-! ## Well-formedness -/

theorem test_wellFormed_start_limit : (Instr.frame 0x2C#8 []).wellFormed = false := by decide
theorem test_wellFormed_sum_limit : (Instr.frame 0x2B#8 [0x00#8]).wellFormed = false := by decide
theorem test_wellFormed_boundary : (Instr.frame 0x2A#8 [0x55#8]).wellFormed = true := by decide

/-! ## Decoding of words written out from the encodings (30_encoding.md R56, R57, R60, R61, R51) -/

theorem test_decode_reset :
    decode .cw .pending [0b00000000#8, 0b00000100#8] = .ok .reset := by decide
theorem test_decode_reset_all_other_bits :
    decode .cw .valid [0b11111111#8, 0b00000111#8] = .ok .reset := by decide
theorem test_decode_clear :
    decode .cw .rejHdr [0b11111111#8, 0b00000011#8] = .ok .clear := by decide
theorem test_decode_accept :
    decode .cw .valid [0b00000000#8, 0b00000000#8] = .ok .accept := by decide
theorem test_decode_accept_byte_offered :
    decode .cw .valid [0b10100100#8, 0b00000001#8] = .ok .accept := by decide
theorem test_decode_rejHdr :
    decode .cw .rejHdr [0b10100100#8, 0b00000001#8] = .ok .rejHdr := by decide
theorem test_decode_rejFunc :
    decode .cw .rejFunc [0b00000000#8, 0b00000000#8] = .ok .rejFunc := by decide
theorem test_decode_rejStart :
    decode .cw .rejStart [0b00000000#8, 0b00000000#8] = .ok .rejStart := by decide
theorem test_decode_rejCount :
    decode .cw .rejCount [0b00000000#8, 0b00000000#8] = .ok .rejCount := by decide
theorem test_decode_rejCsum :
    decode .cw .rejCsum [0b00000000#8, 0b00000000#8] = .ok .rejCsum := by decide
theorem test_decode_push :
    decode .cw .pending [0b10100100#8, 0b00000001#8] = .ok (.push 0xA4#8) := by decide
theorem test_decode_idle :
    decode .cw .pending [0b11111111#8, 0b00000000#8] = .ok .idle := by decide
theorem test_decode_fieldAccX :
    decode .sel .pending [0b00000000#8] = .ok .fieldAccX := by decide
theorem test_decode_fieldAccY :
    decode .sel .pending [0b00000001#8] = .ok .fieldAccY := by decide
theorem test_decode_fieldAccZ :
    decode .sel .pending [0b00000010#8] = .ok .fieldAccZ := by decide
theorem test_decode_fieldGyrX :
    decode .sel .pending [0b00000011#8] = .ok .fieldGyrX := by decide
theorem test_decode_fieldGyrY :
    decode .sel .pending [0b00000100#8] = .ok .fieldGyrY := by decide
theorem test_decode_fieldGyrZ :
    decode .sel .pending [0b00000101#8] = .ok .fieldGyrZ := by decide
theorem test_decode_fieldRoll :
    decode .sel .pending [0b00000110#8] = .ok .fieldRoll := by decide
theorem test_decode_fieldPitch :
    decode .sel .pending [0b00000111#8] = .ok .fieldPitch := by decide
theorem test_decode_fieldYaw :
    decode .sel .pending [0b00001000#8] = .ok .fieldYaw := by decide
theorem test_decode_fieldCalib :
    decode .sel .pending [0b00001001#8] = .ok .fieldCalib := by decide
theorem test_decode_fieldTemp :
    decode .sel .pending [0b00001010#8] = .ok .fieldTemp := by decide
theorem test_decode_fieldMagX :
    decode .sel .pending [0b00001011#8] = .ok .fieldMagX := by decide
theorem test_decode_fieldMagY :
    decode .sel .pending [0b00001100#8] = .ok .fieldMagY := by decide
theorem test_decode_fieldMagZ :
    decode .sel .pending [0b00001101#8] = .ok .fieldMagZ := by decide
theorem test_decode_fieldQ0 :
    decode .sel .pending [0b00001110#8] = .ok .fieldQ0 := by decide
theorem test_decode_fieldQ1 :
    decode .sel .pending [0b00001111#8] = .ok .fieldQ1 := by decide
theorem test_decode_fieldQ2 :
    decode .sel .pending [0b00010000#8] = .ok .fieldQ2 := by decide
theorem test_decode_fieldQ3 :
    decode .sel .pending [0b00010001#8] = .ok .fieldQ3 := by decide
theorem test_decode_sel_18 :
    decode .sel .pending [0b00010010#8] = .ok (.selRsvd18 0#1) := by decide
theorem test_decode_sel_19 :
    decode .sel .pending [0b00010011#8] = .ok (.selRsvd18 1#1) := by decide
theorem test_decode_sel_20 :
    decode .sel .pending [0b00010100#8] = .ok (.selRsvd20 0#2) := by decide
theorem test_decode_sel_23 :
    decode .sel .pending [0b00010111#8] = .ok (.selRsvd20 3#2) := by decide
theorem test_decode_sel_24 :
    decode .sel .pending [0b00011000#8] = .ok (.selRsvd24 0#3) := by decide
theorem test_decode_sel_31 :
    decode .sel .pending [0b00011111#8] = .ok (.selRsvd24 7#3) := by decide
theorem test_decode_frame :
    decode .wire .pending [0xA4#8, 0x03#8, 0x10#8, 0x02#8, 0x11#8, 0x22#8, 0xEC#8]
      = .ok (.frame 0x10#8 [0x11#8, 0x22#8]) := by decide
theorem test_decode_frame_bad_checksum :
    decode .wire .pending [0xA4#8, 0x03#8, 0x00#8, 0x00#8, 0xA8#8] = .error .badChecksum := by decide
theorem test_decode_frame_no_wrap :
    decode .wire .pending [0xA4#8, 0x03#8, 0x10#8, 0xF0#8] = .error .badCount := by decide
theorem test_decode_padding :
    decode .cw .pending [0x00#8, 0x08#8] = .error .padding := by decide
theorem test_table_word_reset : decodeTableWord 16 0x400 = some .reset := by decide
theorem test_table_word_push : decodeTableWord 16 0x100 = some (.push 0x00#8) := by decide
theorem test_table_word_q3 : decodeTableWord 8 0x11 = some .fieldQ3 := by decide
theorem test_table_word_rsvd : decodeTableWord 24 0x14 = some (.selRsvd20 0#2) := by decide
theorem test_fetch_word_runs :
    (nextOf (step (State.reset.withFetchWord 16 0x1A4))).map (fun t => t.hw.W) = some [0xA4#8] := by
  decide

/-! ## Classification (95_test_vectors.md 2.1) -/

theorem test_classify_vectors_a :
    classify ([]) = .pending ∧
    classify ([0xA4#8]) = .pending ∧
    classify ([0x55#8]) = .rejHdr ∧
    classify ([0xA4#8, 0x03#8]) = .pending ∧
    classify ([0xA4#8, 0x04#8]) = .rejFunc ∧
    classify ([0xA4#8, 0xA4#8]) = .rejFunc ∧
    classify ([0x03#8, 0xA4#8]) = .rejHdr ∧
    classify ([0xA4#8, 0x03#8, 0x2B#8]) = .pending ∧
    classify ([0xA4#8, 0x03#8, 0x2C#8]) = .rejStart ∧
    classify ([0xA4#8, 0x03#8, 0xFF#8]) = .rejStart := by decide

theorem test_classify_vectors_b :
    classify ([0xA4#8, 0x03#8, 0x00#8]) = .pending ∧
    classify ([0xA4#8, 0x03#8, 0x2B#8, 0x00#8]) = .pending ∧
    classify ([0xA4#8, 0x03#8, 0x2B#8, 0x01#8]) = .rejCount ∧
    classify ([0xA4#8, 0x03#8, 0x2A#8, 0x01#8]) = .pending ∧
    classify ([0xA4#8, 0x03#8, 0x10#8, 0xF0#8]) = .rejCount ∧
    classify ([0xA4#8, 0x03#8, 0x00#8, 0x2B#8]) = .pending ∧
    classify ([0xA4#8, 0x03#8, 0x00#8, 0x2C#8]) = .rejCount ∧
    classify ([0xA4#8, 0x03#8, 0x00#8, 0xFF#8]) = .rejCount ∧
    classify ([0xA4#8, 0x03#8, 0x00#8, 0x00#8, 0xA7#8]) = .valid ∧
    classify ([0xA4#8, 0x03#8, 0x00#8, 0x00#8, 0xA6#8]) = .rejCsum := by decide

theorem test_classify_vectors_c :
    classify ([0xA4#8, 0x03#8, 0x00#8, 0x00#8, 0xA8#8]) = .rejCsum ∧
    classify ([0xA4#8, 0x03#8, 0x2B#8, 0x00#8, 0xD2#8]) = .valid ∧
    classify ([0xA4#8, 0x03#8, 0x2A#8, 0x01#8, 0x55#8]) = .pending ∧
    classify ([0xA4#8, 0x03#8, 0x2A#8, 0x01#8, 0x55#8, 0x27#8]) = .valid ∧
    classify ([0xA4#8, 0x03#8, 0x2A#8, 0x01#8, 0x55#8, 0x28#8]) = .rejCsum ∧
    classify ([0xA4#8, 0x03#8, 0x10#8, 0x02#8, 0x11#8, 0x22#8, 0xEC#8]) = .valid ∧
    classify ([0xA4#8, 0x03#8, 0x10#8, 0x02#8, 0x11#8, 0x22#8, 0xEC#8, 0x99#8]) = .valid ∧
    classify ([0xA4#8, 0x03#8, 0x00#8, 0x2B#8] ++ List.replicate 43 0x00#8) = .pending ∧
    classify ([0xA4#8, 0x03#8, 0x00#8, 0x2B#8] ++ List.replicate 44 0x00#8) = .rejCsum ∧
    classify ([0xA4#8, 0x03#8, 0x00#8, 0x2B#8] ++ List.replicate 43 0x00#8 ++ [0xD2#8]) = .valid := by decide

/-! ## One step each (95_test_vectors.md 2.2) -/

theorem test_push :
    hwAfter 0x108#11 [0xA4#8, 0x03#8]
      = some { Hw.reset with W := [0xA4#8, 0x03#8, 0x08#8] } := by decide
theorem test_push_at_largest_window :
    (hwAfter 0x1D2#11 ([0xA4#8, 0x03#8, 0x00#8, 0x2B#8] ++ List.replicate 43 0x00#8)).map
      (fun h => (h.W.length, classify h.W)) = some (48, .valid) := by decide
theorem test_held_byte_is_not_taken :
    hwAfter 0x1A4#11 [0x55#8] = some { Hw.reset with evt := 2#3, cnt_struct := 1 } := by decide
theorem test_rejHdr :
    hwAfter 0x000#11 [0x55#8] = some { Hw.reset with evt := 2#3, cnt_struct := 1 } := by decide
theorem test_rejFunc :
    hwAfter 0x000#11 [0xA4#8, 0x04#8]
      = some { Hw.reset with W := [0x04#8], evt := 3#3, cnt_struct := 1 } := by decide
theorem test_rejStart :
    hwAfter 0x000#11 [0xA4#8, 0x03#8, 0x2C#8]
      = some { Hw.reset with W := [0x03#8, 0x2C#8], evt := 4#3, cnt_struct := 1 } := by decide
theorem test_rejCount :
    hwAfter 0x000#11 [0xA4#8, 0x03#8, 0x10#8, 0xF0#8]
      = some { Hw.reset with W := [0x03#8, 0x10#8, 0xF0#8], evt := 5#3, cnt_struct := 1 } := by decide
theorem test_rejCsum :
    hwAfter 0x000#11 [0xA4#8, 0x03#8, 0x00#8, 0x00#8, 0xA8#8]
      = some { Hw.reset with
          W := [0x03#8, 0x00#8, 0x00#8, 0xA8#8], evt := 6#3, cnt_csum := 1 } := by decide
theorem test_accept_count_zero :
    hwAfter 0x000#11 [0xA4#8, 0x03#8, 0x00#8, 0x00#8, 0xA7#8]
      = some { Hw.reset with
          FR := { FrameReg.reset with csum := 0xA7#8 }
          imu_valid := true, imu_short := true, evt := 1#3, cnt_accept := 1 } := by decide
theorem test_accept_leaves_trailing_byte :
    hwAfter 0x000#11 [0xA4#8, 0x03#8, 0x10#8, 0x02#8, 0x11#8, 0x22#8, 0xEC#8, 0x99#8]
      = some { Hw.reset with
          W := [0x99#8]
          FR := {
            start := 0x10#8, count := 0x02#8, csum := 0xEC#8
            pay := (FrameReg.reset.pay.set 0 0x11#8).set 1 0x22#8 }
          imu_valid := true, imu_short := true, evt := 1#3, cnt_accept := 1 } := by decide
theorem test_clear_keeps_counters :
    (nextOf (exec .clear (State.reset.setHw { Hw.reset with
        W := [0xA4#8, 0x03#8, 0x08#8], cnt_accept := 1, cnt_struct := 2, cnt_csum := 3 }))).map State.hw
      = some { Hw.reset with cnt_accept := 1, cnt_struct := 2, cnt_csum := 3 } := by decide
theorem test_clear_over_pending_reject : hwAfter 0x3FF#11 [0x55#8] = some Hw.reset := by decide
theorem test_idle :
    hwAfter 0x000#11 [0xA4#8, 0x03#8] = some { Hw.reset with W := [0xA4#8, 0x03#8] } := by decide
theorem test_reset_any_word : hwAfter 0x7FF#11 [0x55#8] = some Hw.reset := by decide
theorem test_counter_wraps_at_16_bits :
    (nextOf (exec .rejHdr (State.reset.setHw { Hw.reset with
        W := [0x55#8], cnt_struct := 0xFFFF }))).map (fun t => t.hw.cnt_struct) = some 0 := by decide
theorem test_counter_wraps_at_2_bits :
    (nextOf (exec .rejHdr { win [0x55#8] with
        cfg := { cntW := 2 }, hw := { Hw.reset with W := [0x55#8], cnt_struct := 3 } })).map
      (fun t => t.hw.cnt_struct) = some 0 := by decide

/-! ## Field reads (95_test_vectors.md 2.3) -/

theorem test_fieldAccX :
    shows .fieldAccX (withPay 0 0x80#8) = some (0x80, 0, false, 0x4060000000000000, false) := by decide
theorem test_fieldGyrZ :
    shows .fieldGyrZ (withPay 5 0xFF#8) = some (0xFF, 0, false, 0x406FE00000000000, false) := by decide
theorem test_fieldRoll :
    shows .fieldRoll (withPay 6 0x00#8) = some (0x00, 1, true, 0x0000000000000000, false) := by decide
theorem test_fieldPitch :
    shows .fieldPitch (withPay 7 0x01#8) = some (0x01, 1, true, 0x3F847AE147AE147B, false) := by decide
theorem test_fieldYaw :
    shows .fieldYaw (withPay 8 0x19#8) = some (0x19, 1, true, 0x3FD0000000000000, false) := by decide
theorem test_fieldTemp :
    shows .fieldTemp (withPay 10 0xFF#8) = some (0xFF, 1, true, 0x4004666666666666, false) := by decide
theorem test_fieldCalib :
    shows .fieldCalib (withPay 9 0xC8#8) = some (0xC8, 0, false, 0x4069000000000000, false) := by decide
theorem test_fieldQ0 :
    shows .fieldQ0 (withPay 14 0xFF#8) = some (0xFF, 2, true, 0x3F9A1CAC083126E9, false) := by decide
theorem test_fieldQ3 :
    shows .fieldQ3 (withPay 17 0x64#8) = some (0x64, 2, true, 0x3F847AE147AE147B, false) := by decide
theorem test_selRsvd18 : shows (.selRsvd18 0#1) (withPay 0 0xFF#8) = some (0, 0, false, 0, true) := by decide
theorem test_selRsvd20 : shows (.selRsvd20 0#2) (withPay 0 0xFF#8) = some (0, 0, false, 0, true) := by decide
theorem test_selRsvd24 : shows (.selRsvd24 7#3) (withPay 0 0xFF#8) = some (0, 0, false, 0, true) := by decide

/-! ## FRAME (95_test_vectors.md E1; E6) -/

/-- The payload of the source's decode example. -/
def examplePay : List Byte :=
  [0x01#8, 0x02#8, 0x03#8, 0x04#8, 0x05#8, 0x06#8, 0x64#8, 0x64#8, 0x64#8,
   0x01#8, 0x64#8, 0x07#8, 0x08#8, 0x09#8, 0x01#8, 0x01#8, 0x01#8, 0x01#8]

theorem test_frame_example :
    (nextOf (exec (.frame 0x08#8 examplePay) State.reset)).map
      (fun t => (t.hw.W, t.hw.FR.csum, t.hw.FR.pay.toList, t.hw.imu_short, t.hw.cnt_accept))
      = some ([], 0x83#8, examplePay, false, 1) := by decide +kernel
/-- What each select value shows after the example frame: raw byte and value. -/
theorem test_example_fields :
    (nextOf (exec (.frame 0x08#8 examplePay) State.reset)).map (fun t =>
      (List.range 18).map fun k =>
        let o := (outputs t.hw { cwPins 0#11 with sel := BitVec.ofNat 5 k }).fld
        (o.fld_raw.toNat, o.fld_f64.toNat))
      = some
        [(0x01, 0x3FF0000000000000), (0x02, 0x4000000000000000), (0x03, 0x4008000000000000),
         (0x04, 0x4010000000000000), (0x05, 0x4014000000000000), (0x06, 0x4018000000000000),
         (0x64, 0x3FF0000000000000), (0x64, 0x3FF0000000000000), (0x64, 0x3FF0000000000000),
         (0x01, 0x3FF0000000000000), (0x64, 0x3FF0000000000000), (0x07, 0x401C000000000000),
         (0x08, 0x4020000000000000), (0x09, 0x4022000000000000), (0x01, 0x3F1A36E2EB1C432D),
         (0x01, 0x3F1A36E2EB1C432D), (0x01, 0x3F1A36E2EB1C432D), (0x01, 0x3F1A36E2EB1C432D)] := by
  decide +kernel
theorem test_frame_after_pending_header :
    (nextOf (exec (.frame 0x00#8 []) (win [0xA4#8]))).map
      (fun t => (t.hw.W, t.hw.cnt_accept, t.hw.cnt_struct, t.pos)) = some ([], 1, 1, 6) := by decide

/-! ## binary64 (95_test_vectors.md section 4, complete tables) -/

/-- The patterns of `a / d`, .., `(a + 31) / d`. -/
def patterns (d a : Nat) : List Nat := (List.range 32).map fun k => (b2f64 (a + k) d).toNat

theorem test_b2f64_integers :
    (b2f64 0x00 1, b2f64 0x01 1, b2f64 0x80 1, b2f64 0xFF 1)
      = (0x0000000000000000#64, 0x3FF0000000000000#64, 0x4060000000000000#64, 0x406FE00000000000#64) := by
  decide
theorem test_b2f64_hundred_a : patterns 100 0 =
    [0x0000000000000000, 0x3F847AE147AE147B, 0x3F947AE147AE147B, 0x3F9EB851EB851EB8,
     0x3FA47AE147AE147B, 0x3FA999999999999A, 0x3FAEB851EB851EB8, 0x3FB1EB851EB851EC,
     0x3FB47AE147AE147B, 0x3FB70A3D70A3D70A, 0x3FB999999999999A, 0x3FBC28F5C28F5C29,
     0x3FBEB851EB851EB8, 0x3FC0A3D70A3D70A4, 0x3FC1EB851EB851EC, 0x3FC3333333333333,
     0x3FC47AE147AE147B, 0x3FC5C28F5C28F5C3, 0x3FC70A3D70A3D70A, 0x3FC851EB851EB852,
     0x3FC999999999999A, 0x3FCAE147AE147AE1, 0x3FCC28F5C28F5C29, 0x3FCD70A3D70A3D71,
     0x3FCEB851EB851EB8, 0x3FD0000000000000, 0x3FD0A3D70A3D70A4, 0x3FD147AE147AE148,
     0x3FD1EB851EB851EC, 0x3FD28F5C28F5C28F, 0x3FD3333333333333, 0x3FD3D70A3D70A3D7] := by decide +kernel
theorem test_b2f64_hundred_b : patterns 100 32 =
    [0x3FD47AE147AE147B, 0x3FD51EB851EB851F, 0x3FD5C28F5C28F5C3, 0x3FD6666666666666,
     0x3FD70A3D70A3D70A, 0x3FD7AE147AE147AE, 0x3FD851EB851EB852, 0x3FD8F5C28F5C28F6,
     0x3FD999999999999A, 0x3FDA3D70A3D70A3D, 0x3FDAE147AE147AE1, 0x3FDB851EB851EB85,
     0x3FDC28F5C28F5C29, 0x3FDCCCCCCCCCCCCD, 0x3FDD70A3D70A3D71, 0x3FDE147AE147AE14,
     0x3FDEB851EB851EB8, 0x3FDF5C28F5C28F5C, 0x3FE0000000000000, 0x3FE051EB851EB852,
     0x3FE0A3D70A3D70A4, 0x3FE0F5C28F5C28F6, 0x3FE147AE147AE148, 0x3FE199999999999A,
     0x3FE1EB851EB851EC, 0x3FE23D70A3D70A3D, 0x3FE28F5C28F5C28F, 0x3FE2E147AE147AE1,
     0x3FE3333333333333, 0x3FE3851EB851EB85, 0x3FE3D70A3D70A3D7, 0x3FE428F5C28F5C29] := by decide +kernel
theorem test_b2f64_hundred_c : patterns 100 64 =
    [0x3FE47AE147AE147B, 0x3FE4CCCCCCCCCCCD, 0x3FE51EB851EB851F, 0x3FE570A3D70A3D71,
     0x3FE5C28F5C28F5C3, 0x3FE6147AE147AE14, 0x3FE6666666666666, 0x3FE6B851EB851EB8,
     0x3FE70A3D70A3D70A, 0x3FE75C28F5C28F5C, 0x3FE7AE147AE147AE, 0x3FE8000000000000,
     0x3FE851EB851EB852, 0x3FE8A3D70A3D70A4, 0x3FE8F5C28F5C28F6, 0x3FE947AE147AE148,
     0x3FE999999999999A, 0x3FE9EB851EB851EC, 0x3FEA3D70A3D70A3D, 0x3FEA8F5C28F5C28F,
     0x3FEAE147AE147AE1, 0x3FEB333333333333, 0x3FEB851EB851EB85, 0x3FEBD70A3D70A3D7,
     0x3FEC28F5C28F5C29, 0x3FEC7AE147AE147B, 0x3FECCCCCCCCCCCCD, 0x3FED1EB851EB851F,
     0x3FED70A3D70A3D71, 0x3FEDC28F5C28F5C3, 0x3FEE147AE147AE14, 0x3FEE666666666666] := by decide +kernel
theorem test_b2f64_hundred_d : patterns 100 96 =
    [0x3FEEB851EB851EB8, 0x3FEF0A3D70A3D70A, 0x3FEF5C28F5C28F5C, 0x3FEFAE147AE147AE,
     0x3FF0000000000000, 0x3FF028F5C28F5C29, 0x3FF051EB851EB852, 0x3FF07AE147AE147B,
     0x3FF0A3D70A3D70A4, 0x3FF0CCCCCCCCCCCD, 0x3FF0F5C28F5C28F6, 0x3FF11EB851EB851F,
     0x3FF147AE147AE148, 0x3FF170A3D70A3D71, 0x3FF199999999999A, 0x3FF1C28F5C28F5C3,
     0x3FF1EB851EB851EC, 0x3FF2147AE147AE14, 0x3FF23D70A3D70A3D, 0x3FF2666666666666,
     0x3FF28F5C28F5C28F, 0x3FF2B851EB851EB8, 0x3FF2E147AE147AE1, 0x3FF30A3D70A3D70A,
     0x3FF3333333333333, 0x3FF35C28F5C28F5C, 0x3FF3851EB851EB85, 0x3FF3AE147AE147AE,
     0x3FF3D70A3D70A3D7, 0x3FF4000000000000, 0x3FF428F5C28F5C29, 0x3FF451EB851EB852] := by decide +kernel
theorem test_b2f64_hundred_e : patterns 100 128 =
    [0x3FF47AE147AE147B, 0x3FF4A3D70A3D70A4, 0x3FF4CCCCCCCCCCCD, 0x3FF4F5C28F5C28F6,
     0x3FF51EB851EB851F, 0x3FF547AE147AE148, 0x3FF570A3D70A3D71, 0x3FF599999999999A,
     0x3FF5C28F5C28F5C3, 0x3FF5EB851EB851EC, 0x3FF6147AE147AE14, 0x3FF63D70A3D70A3D,
     0x3FF6666666666666, 0x3FF68F5C28F5C28F, 0x3FF6B851EB851EB8, 0x3FF6E147AE147AE1,
     0x3FF70A3D70A3D70A, 0x3FF7333333333333, 0x3FF75C28F5C28F5C, 0x3FF7851EB851EB85,
     0x3FF7AE147AE147AE, 0x3FF7D70A3D70A3D7, 0x3FF8000000000000, 0x3FF828F5C28F5C29,
     0x3FF851EB851EB852, 0x3FF87AE147AE147B, 0x3FF8A3D70A3D70A4, 0x3FF8CCCCCCCCCCCD,
     0x3FF8F5C28F5C28F6, 0x3FF91EB851EB851F, 0x3FF947AE147AE148, 0x3FF970A3D70A3D71] := by decide +kernel
theorem test_b2f64_hundred_f : patterns 100 160 =
    [0x3FF999999999999A, 0x3FF9C28F5C28F5C3, 0x3FF9EB851EB851EC, 0x3FFA147AE147AE14,
     0x3FFA3D70A3D70A3D, 0x3FFA666666666666, 0x3FFA8F5C28F5C28F, 0x3FFAB851EB851EB8,
     0x3FFAE147AE147AE1, 0x3FFB0A3D70A3D70A, 0x3FFB333333333333, 0x3FFB5C28F5C28F5C,
     0x3FFB851EB851EB85, 0x3FFBAE147AE147AE, 0x3FFBD70A3D70A3D7, 0x3FFC000000000000,
     0x3FFC28F5C28F5C29, 0x3FFC51EB851EB852, 0x3FFC7AE147AE147B, 0x3FFCA3D70A3D70A4,
     0x3FFCCCCCCCCCCCCD, 0x3FFCF5C28F5C28F6, 0x3FFD1EB851EB851F, 0x3FFD47AE147AE148,
     0x3FFD70A3D70A3D71, 0x3FFD99999999999A, 0x3FFDC28F5C28F5C3, 0x3FFDEB851EB851EC,
     0x3FFE147AE147AE14, 0x3FFE3D70A3D70A3D, 0x3FFE666666666666, 0x3FFE8F5C28F5C28F] := by decide +kernel
theorem test_b2f64_hundred_g : patterns 100 192 =
    [0x3FFEB851EB851EB8, 0x3FFEE147AE147AE1, 0x3FFF0A3D70A3D70A, 0x3FFF333333333333,
     0x3FFF5C28F5C28F5C, 0x3FFF851EB851EB85, 0x3FFFAE147AE147AE, 0x3FFFD70A3D70A3D7,
     0x4000000000000000, 0x4000147AE147AE14, 0x400028F5C28F5C29, 0x40003D70A3D70A3D,
     0x400051EB851EB852, 0x4000666666666666, 0x40007AE147AE147B, 0x40008F5C28F5C28F,
     0x4000A3D70A3D70A4, 0x4000B851EB851EB8, 0x4000CCCCCCCCCCCD, 0x4000E147AE147AE1,
     0x4000F5C28F5C28F6, 0x40010A3D70A3D70A, 0x40011EB851EB851F, 0x4001333333333333,
     0x400147AE147AE148, 0x40015C28F5C28F5C, 0x400170A3D70A3D71, 0x4001851EB851EB85,
     0x400199999999999A, 0x4001AE147AE147AE, 0x4001C28F5C28F5C3, 0x4001D70A3D70A3D7] := by decide +kernel
theorem test_b2f64_hundred_h : patterns 100 224 =
    [0x4001EB851EB851EC, 0x4002000000000000, 0x4002147AE147AE14, 0x400228F5C28F5C29,
     0x40023D70A3D70A3D, 0x400251EB851EB852, 0x4002666666666666, 0x40027AE147AE147B,
     0x40028F5C28F5C28F, 0x4002A3D70A3D70A4, 0x4002B851EB851EB8, 0x4002CCCCCCCCCCCD,
     0x4002E147AE147AE1, 0x4002F5C28F5C28F6, 0x40030A3D70A3D70A, 0x40031EB851EB851F,
     0x4003333333333333, 0x400347AE147AE148, 0x40035C28F5C28F5C, 0x400370A3D70A3D71,
     0x4003851EB851EB85, 0x400399999999999A, 0x4003AE147AE147AE, 0x4003C28F5C28F5C3,
     0x4003D70A3D70A3D7, 0x4003EB851EB851EC, 0x4004000000000000, 0x4004147AE147AE14,
     0x400428F5C28F5C29, 0x40043D70A3D70A3D, 0x400451EB851EB852, 0x4004666666666666] := by decide +kernel
theorem test_b2f64_tenThousand_a : patterns 10000 0 =
    [0x0000000000000000, 0x3F1A36E2EB1C432D, 0x3F2A36E2EB1C432D, 0x3F33A92A30553261,
     0x3F3A36E2EB1C432D, 0x3F40624DD2F1A9FC, 0x3F43A92A30553261, 0x3F46F0068DB8BAC7,
     0x3F4A36E2EB1C432D, 0x3F4D7DBF487FCB92, 0x3F50624DD2F1A9FC, 0x3F5205BC01A36E2F,
     0x3F53A92A30553261, 0x3F554C985F06F694, 0x3F56F0068DB8BAC7, 0x3F589374BC6A7EFA,
     0x3F5A36E2EB1C432D, 0x3F5BDA5119CE075F, 0x3F5D7DBF487FCB92, 0x3F5F212D77318FC5,
     0x3F60624DD2F1A9FC, 0x3F613404EA4A8C15, 0x3F6205BC01A36E2F, 0x3F62D77318FC5048,
     0x3F63A92A30553261, 0x3F647AE147AE147B, 0x3F654C985F06F694, 0x3F661E4F765FD8AE,
     0x3F66F0068DB8BAC7, 0x3F67C1BDA5119CE0, 0x3F689374BC6A7EFA, 0x3F69652BD3C36113] := by decide +kernel
theorem test_b2f64_tenThousand_b : patterns 10000 32 =
    [0x3F6A36E2EB1C432D, 0x3F6B089A02752546, 0x3F6BDA5119CE075F, 0x3F6CAC083126E979,
     0x3F6D7DBF487FCB92, 0x3F6E4F765FD8ADAC, 0x3F6F212D77318FC5, 0x3F6FF2E48E8A71DE,
     0x3F70624DD2F1A9FC, 0x3F70CB295E9E1B09, 0x3F713404EA4A8C15, 0x3F719CE075F6FD22,
     0x3F7205BC01A36E2F, 0x3F726E978D4FDF3B, 0x3F72D77318FC5048, 0x3F73404EA4A8C155,
     0x3F73A92A30553261, 0x3F741205BC01A36E, 0x3F747AE147AE147B, 0x3F74E3BCD35A8588,
     0x3F754C985F06F694, 0x3F75B573EAB367A1, 0x3F761E4F765FD8AE, 0x3F76872B020C49BA,
     0x3F76F0068DB8BAC7, 0x3F7758E219652BD4, 0x3F77C1BDA5119CE0, 0x3F782A9930BE0DED,
     0x3F789374BC6A7EFA, 0x3F78FC504816F007, 0x3F79652BD3C36113, 0x3F79CE075F6FD220] := by decide +kernel
theorem test_b2f64_tenThousand_c : patterns 10000 64 =
    [0x3F7A36E2EB1C432D, 0x3F7A9FBE76C8B439, 0x3F7B089A02752546, 0x3F7B71758E219653,
     0x3F7BDA5119CE075F, 0x3F7C432CA57A786C, 0x3F7CAC083126E979, 0x3F7D14E3BCD35A86,
     0x3F7D7DBF487FCB92, 0x3F7DE69AD42C3C9F, 0x3F7E4F765FD8ADAC, 0x3F7EB851EB851EB8,
     0x3F7F212D77318FC5, 0x3F7F8A0902DE00D2, 0x3F7FF2E48E8A71DE, 0x3F802DE00D1B7176,
     0x3F80624DD2F1A9FC, 0x3F8096BB98C7E282, 0x3F80CB295E9E1B09, 0x3F80FF972474538F,
     0x3F813404EA4A8C15, 0x3F816872B020C49C, 0x3F819CE075F6FD22, 0x3F81D14E3BCD35A8,
     0x3F8205BC01A36E2F, 0x3F823A29C779A6B5, 0x3F826E978D4FDF3B, 0x3F82A305532617C2,
     0x3F82D77318FC5048, 0x3F830BE0DED288CE, 0x3F83404EA4A8C155, 0x3F8374BC6A7EF9DB] := by decide +kernel
theorem test_b2f64_tenThousand_d : patterns 10000 96 =
    [0x3F83A92A30553261, 0x3F83DD97F62B6AE8, 0x3F841205BC01A36E, 0x3F84467381D7DBF5,
     0x3F847AE147AE147B, 0x3F84AF4F0D844D01, 0x3F84E3BCD35A8588, 0x3F85182A9930BE0E,
     0x3F854C985F06F694, 0x3F85810624DD2F1B, 0x3F85B573EAB367A1, 0x3F85E9E1B089A027,
     0x3F861E4F765FD8AE, 0x3F8652BD3C361134, 0x3F86872B020C49BA, 0x3F86BB98C7E28241,
     0x3F86F0068DB8BAC7, 0x3F872474538EF34D, 0x3F8758E219652BD4, 0x3F878D4FDF3B645A,
     0x3F87C1BDA5119CE0, 0x3F87F62B6AE7D567, 0x3F882A9930BE0DED, 0x3F885F06F6944674,
     0x3F889374BC6A7EFA, 0x3F88C7E28240B780, 0x3F88FC504816F007, 0x3F8930BE0DED288D,
     0x3F89652BD3C36113, 0x3F8999999999999A, 0x3F89CE075F6FD220, 0x3F8A027525460AA6] := by decide +kernel
theorem test_b2f64_tenThousand_e : patterns 10000 128 =
    [0x3F8A36E2EB1C432D, 0x3F8A6B50B0F27BB3, 0x3F8A9FBE76C8B439, 0x3F8AD42C3C9EECC0,
     0x3F8B089A02752546, 0x3F8B3D07C84B5DCC, 0x3F8B71758E219653, 0x3F8BA5E353F7CED9,
     0x3F8BDA5119CE075F, 0x3F8C0EBEDFA43FE6, 0x3F8C432CA57A786C, 0x3F8C779A6B50B0F2,
     0x3F8CAC083126E979, 0x3F8CE075F6FD21FF, 0x3F8D14E3BCD35A86, 0x3F8D495182A9930C,
     0x3F8D7DBF487FCB92, 0x3F8DB22D0E560419, 0x3F8DE69AD42C3C9F, 0x3F8E1B089A027525,
     0x3F8E4F765FD8ADAC, 0x3F8E83E425AEE632, 0x3F8EB851EB851EB8, 0x3F8EECBFB15B573F,
     0x3F8F212D77318FC5, 0x3F8F559B3D07C84B, 0x3F8F8A0902DE00D2, 0x3F8FBE76C8B43958,
     0x3F8FF2E48E8A71DE, 0x3F9013A92A305532, 0x3F902DE00D1B7176, 0x3F904816F0068DB9] := by decide +kernel
theorem test_b2f64_tenThousand_f : patterns 10000 160 =
    [0x3F90624DD2F1A9FC, 0x3F907C84B5DCC63F, 0x3F9096BB98C7E282, 0x3F90B0F27BB2FEC5,
     0x3F90CB295E9E1B09, 0x3F90E5604189374C, 0x3F90FF972474538F, 0x3F9119CE075F6FD2,
     0x3F913404EA4A8C15, 0x3F914E3BCD35A858, 0x3F916872B020C49C, 0x3F9182A9930BE0DF,
     0x3F919CE075F6FD22, 0x3F91B71758E21965, 0x3F91D14E3BCD35A8, 0x3F91EB851EB851EC,
     0x3F9205BC01A36E2F, 0x3F921FF2E48E8A72, 0x3F923A29C779A6B5, 0x3F925460AA64C2F8,
     0x3F926E978D4FDF3B, 0x3F9288CE703AFB7F, 0x3F92A305532617C2, 0x3F92BD3C36113405,
     0x3F92D77318FC5048, 0x3F92F1A9FBE76C8B, 0x3F930BE0DED288CE, 0x3F932617C1BDA512,
     0x3F93404EA4A8C155, 0x3F935A858793DD98, 0x3F9374BC6A7EF9DB, 0x3F938EF34D6A161E] := by decide +kernel
theorem test_b2f64_tenThousand_g : patterns 10000 192 =
    [0x3F93A92A30553261, 0x3F93C36113404EA5, 0x3F93DD97F62B6AE8, 0x3F93F7CED916872B,
     0x3F941205BC01A36E, 0x3F942C3C9EECBFB1, 0x3F94467381D7DBF5, 0x3F9460AA64C2F838,
     0x3F947AE147AE147B, 0x3F9495182A9930BE, 0x3F94AF4F0D844D01, 0x3F94C985F06F6944,
     0x3F94E3BCD35A8588, 0x3F94FDF3B645A1CB, 0x3F95182A9930BE0E, 0x3F9532617C1BDA51,
     0x3F954C985F06F694, 0x3F9566CF41F212D7, 0x3F95810624DD2F1B, 0x3F959B3D07C84B5E,
     0x3F95B573EAB367A1, 0x3F95CFAACD9E83E4, 0x3F95E9E1B089A027, 0x3F9604189374BC6A,
     0x3F961E4F765FD8AE, 0x3F963886594AF4F1, 0x3F9652BD3C361134, 0x3F966CF41F212D77,
     0x3F96872B020C49BA, 0x3F96A161E4F765FE, 0x3F96BB98C7E28241, 0x3F96D5CFAACD9E84] := by decide +kernel
theorem test_b2f64_tenThousand_h : patterns 10000 224 =
    [0x3F96F0068DB8BAC7, 0x3F970A3D70A3D70A, 0x3F972474538EF34D, 0x3F973EAB367A0F91,
     0x3F9758E219652BD4, 0x3F977318FC504817, 0x3F978D4FDF3B645A, 0x3F97A786C226809D,
     0x3F97C1BDA5119CE0, 0x3F97DBF487FCB924, 0x3F97F62B6AE7D567, 0x3F9810624DD2F1AA,
     0x3F982A9930BE0DED, 0x3F9844D013A92A30, 0x3F985F06F6944674, 0x3F98793DD97F62B7,
     0x3F989374BC6A7EFA, 0x3F98ADAB9F559B3D, 0x3F98C7E28240B780, 0x3F98E219652BD3C3,
     0x3F98FC504816F007, 0x3F9916872B020C4A, 0x3F9930BE0DED288D, 0x3F994AF4F0D844D0,
     0x3F99652BD3C36113, 0x3F997F62B6AE7D56, 0x3F9999999999999A, 0x3F99B3D07C84B5DD,
     0x3F99CE075F6FD220, 0x3F99E83E425AEE63, 0x3F9A027525460AA6, 0x3F9A1CAC083126E9] := by decide +kernel

/-! ## Witnesses: concrete states and operands that meet the hypotheses of each statement -/

/-- A window that holds a pending candidate. -/
def pendingWin : List Byte := [0xA4#8, 0x03#8]

/-- A window that holds a valid frame of two payload bytes and one byte more. -/
def validWin : List Byte := [0xA4#8, 0x03#8, 0x10#8, 0x02#8, 0x11#8, 0x22#8, 0xEC#8, 0x99#8]

/-- A window whose candidate has a checksum one too high. -/
def badSumWin : List Byte := [0xA4#8, 0x03#8, 0x00#8, 0x00#8, 0xA8#8]

/-- A state that meets the invariant, has accepted a frame, and is about to run a cycle. -/
def liveState : State :=
  { drives (.cycle (cwPins 0x000#11)) (win validWin) with
    hw := { Hw.reset with
      W := validWin
      FR := { FrameReg.reset with csum := 0xA7#8 }
      imu_valid := true
      imu_short := true
      cnt_accept := 1 } }

theorem witness_ResetCompletes : (cwPins 0x7FF#11).rst = true := by decide
theorem witness_ClearCompletes :
    (cwPins 0x3FF#11).rst = false ∧ (cwPins 0x3FF#11).sync_clr = true := by decide
theorem witness_IdleCompletes : classify (win pendingWin).hw.W = .pending := by decide
theorem witness_PushCompletes : classify (win pendingWin).hw.W = .pending := by decide
theorem witness_ResetAndClearOverrideAll :
    (drives (.cycle (cwPins 0x7FF#11)) (win [0x55#8])).env.drive = .cycle (cwPins 0x7FF#11) :: [] ∧
    (cwPins 0x7FF#11).rst = true ∧ (cwPins 0x3FF#11).rst = false ∧
    (cwPins 0x3FF#11).sync_clr = true := by decide
theorem witness_StructuralRejectsComplete :
    classify (win [0x55#8]).hw.W = .rejHdr ∧ classify (win [0xA4#8, 0x04#8]).hw.W = .rejFunc ∧
    classify (win [0xA4#8, 0x03#8, 0x2C#8]).hw.W = .rejStart ∧
    classify (win [0xA4#8, 0x03#8, 0x2B#8, 0x01#8]).hw.W = .rejCount := by decide
theorem witness_ChecksumRejectCompletes : classify (win badSumWin).hw.W = .rejCsum := by decide
theorem witness_AcceptCompletes : classify (win validWin).hw.W = .valid := by decide
theorem witness_ShortFrameFieldsReadZero :
    classify (win validWin).hw.W = .valid ∧ ((win validWin).hw.W.getD 3 0#8).toNat < 18 ∧
    ((win validWin).hw.W.getD 3 0#8).toNat ≤ (Pins.mk false false false 0#8 2#5 false).sel.toNat ∧
    (Pins.mk false false false 0#8 17#5 false).sel.toNat < 18 := by decide
theorem witness_MultiplexerPresentsSelectedField :
    (∀ k : Fin 18,
      (Pins.mk false false false 0#8 (BitVec.ofNat 5 k.val) false).sel.toNat = k.val) ∧
    18 ≤ (Pins.mk false false false 0#8 18#5 false).sel.toNat ∧
    18 ≤ (Pins.mk false false false 0#8 31#5 false).sel.toNat := by decide
theorem witness_FieldOutputsChangeOnlyByAcceptAndReset :
    Instr.idle ≠ .accept ∧ Instr.idle ≠ .reset ∧ (∀ a b, Instr.idle ≠ .frame a b) ∧
    exec .idle liveState = .next (writeEvent evtNone liveState) := by
  refine ⟨by decide, by decide, ?_, rfl⟩
  intro a b h
  cases h
theorem witness_ScaledValueIsNearestBinary64 :
    f64Exp 0x7FE0000000000000#64 ≠ 2047 ∧ f64Exp 0x0000000000000001#64 ≠ 2047 := by decide
theorem witness_FrameOnEmptyWindowIsAccepted :
    (0x2B#8).toNat < 0x2C ∧ (0x2B#8).toNat + ([] : List Byte).length < 0x2C ∧
    (0x00#8).toNat + (List.replicate 43 0x00#8).length < 0x2C ∧ State.reset.hw.W = [] := by decide
theorem witness_FramePayloadDecodesIndependentOfStart :
    (0x00#8).toNat + examplePay.length < 0x2C ∧ (0x08#8).toNat + examplePay.length < 0x2C ∧
    State.reset.hw.W = [] ∧ (Pins.mk false false false 0#8 17#5 false).sel.toNat < 18 := by decide
theorem witness_FrameLengthsAreLegal :
    (Instr.frame 0x2B#8 []).wellFormed = true ∧
    (Instr.frame 0x00#8 (List.replicate 43 0x00#8)).wellFormed = true ∧
    (0x2B#8).toNat ≤ 0x2B := by decide
theorem witness_DecodeOfEncodeIsIdentity :
    (Instr.frame 0x00#8 (List.replicate 43 0xFF#8)).wellFormed = true ∧
    (Instr.push 0xFF#8).wellFormed = true := by decide
theorem witness_EveryWordFitsItsOperation :
    decodeWire [0xA4#8, 0x03#8, 0x2B#8, 0x00#8, 0xD2#8] = .ok (.frame 0x2B#8 []) := by decide
theorem witness_OperationSelectionFollowsPriority :
    (cwPins 0x400#11).rst = true ∧ (cwPins 0x200#11).rst = false ∧
    (cwPins 0x200#11).sync_clr = true ∧ (cwPins 0x1A4#11).rst = false ∧
    (cwPins 0x1A4#11).sync_clr = false ∧ (cwPins 0x1A4#11).in_valid = true ∧
    (cwPins 0x0FF#11).in_valid = false := by decide
theorem witness_VerdictIsStable :
    classify validWin ≠ .pending ∧ 4 ≤ validWin.length := by decide
theorem witness_PendingWindowHasRoom :
    classify ([0xA4#8, 0x03#8, 0x00#8, 0x2B#8] ++ List.replicate 43 0x00#8) = .pending := by decide
theorem witness_StepRunsSelectedOperation :
    (drives (.cycle (cwPins 0#11)) State.reset).env.drive = .cycle (cwPins 0#11) :: [] ∧
    (drives (.select 18#5) State.reset).env.drive = .select 18#5 :: [] ∧
    (Instr.frame 0x2B#8 []).wellFormed = true ∧
    (encode (Instr.frame 0x2B#8 [])).port = .wire ∧
    (drives (.wire (encode (Instr.frame 0x2B#8 [])).bytes) State.reset).env.drive
      = .wire (encode (Instr.frame 0x2B#8 [])).bytes :: [] ∧
    isFrame [0x55#8] = false ∧ State.reset.env.drive = [] := by decide
theorem witness_InstructionsLeaveSurroundings :
    exec (.push 0x55#8) liveState = .next (appendByte 0x55#8 liveState) ∧
    (encode (.push 0x55#8)).port ≠ .sel := by
  exact ⟨rfl, by decide⟩
theorem witness_RejectRemovesExactlyOneByte :
    (drives (.cycle (cwPins 0x1A4#11)) (win badSumWin)).env.drive = .cycle (cwPins 0x1A4#11) :: [] ∧
    (cwPins 0x1A4#11).rst = false ∧ (cwPins 0x1A4#11).sync_clr = false ∧
    classify (win badSumWin).hw.W ≠ .pending ∧ classify (win badSumWin).hw.W ≠ .valid := by decide
theorem witness_TransferExactlyOnHandshake :
    liveState.env.drive = .cycle (cwPins 0x000#11) :: [] ∧
    (outputs liveState.hw (cwPins 0x000#11)).in_ready = false ∧
    (outputs (win pendingWin).hw (cwPins 0x1A4#11)).in_ready = true ∧
    (cwPins 0x1A4#11).in_valid = true := by decide
theorem witness_EventReportsTheStep :
    liveState.env.drive = .cycle (cwPins 0x000#11) :: [] ∧
    decodeCw (classify liveState.hw.W) (cwPins 0x000#11).cw = .accept ∧
    decodeCw (classify [0x55#8]) (cwPins 0x000#11).cw = .rejHdr ∧
    decodeCw (classify [0xA4#8, 0x04#8]) (cwPins 0x000#11).cw = .rejFunc ∧
    decodeCw (classify [0xA4#8, 0x03#8, 0x2C#8]) (cwPins 0x000#11).cw = .rejStart ∧
    decodeCw (classify [0xA4#8, 0x03#8, 0x2B#8, 0x01#8]) (cwPins 0x000#11).cw = .rejCount ∧
    decodeCw (classify badSumWin) (cwPins 0x000#11).cw = .rejCsum ∧
    decodeCw (classify pendingWin) (cwPins 0x000#11).cw = .idle ∧
    decodeCw (classify pendingWin) (cwPins 0x155#11).cw = .push 0x55#8 ∧
    decodeCw (classify pendingWin) (cwPins 0x200#11).cw = .clear ∧
    decodeCw (classify pendingWin) (cwPins 0x400#11).cw = .reset := by decide
theorem witness_CountersCountTheirEvents :
    liveState.env.drive = .cycle (cwPins 0x000#11) :: [] ∧ (cwPins 0x000#11).rst = false ∧
    (cwPins 0x400#11).rst = true := by decide
theorem witness_LinkAndSelectHaveNoEffectOnState :
    liveState.env.drive = .cycle (Pins.mk false false false 0#8 0#5 false) :: [] ∧
    (Pins.mk false false false 0#8 0#5 false).in_byte
      = (Pins.mk false false false 0#8 31#5 true).in_byte := by decide
theorem witness_ChecksumOffByOneIsRejected :
    (Instr.frame 0x00#8 []).wellFormed = true ∧
    0xA8#8 = sum8 (frameBody 0x00#8 []) + 1#8 ∧ 0xA6#8 = sum8 (frameBody 0x00#8 []) - 1#8 ∧
    (drives (.cycle (cwPins 0#11)) (win badSumWin)).hw.W = frameBody 0x00#8 [] ++ 0xA8#8 :: [] ∧
    (drives (.cycle (cwPins 0#11)) (win badSumWin)).env.drive = .cycle (cwPins 0#11) :: [] ∧
    (cwPins 0#11).rst = false ∧ (cwPins 0#11).sync_clr = false := by decide

theorem liveState_inv : Inv liveState where
  window := by decide
  count := by decide
  range := by decide
  fill := by decide
  event := by decide
  short := by decide
  fresh := by decide
  accepts := by decide
  structs := by decide
  csums := by decide

theorem witness_ImuValidLastsUntilReset :
    classify liveState.hw.W = .valid ∧ Instr.idle ≠ .reset ∧ liveState.hw.imu_valid = true ∧
    exec .idle liveState = .next (writeEvent evtNone liveState) :=
  ⟨by decide, by decide, rfl, rfl⟩
theorem witness_ImuValidLastsUntilReset_fresh :
    ∃ s : State, Inv s ∧ s.hw.imu_valid = false := by
  refine ⟨win [], ⟨?_, ?_, ?_, ?_, ?_, ?_, ?_, ?_, ?_, ?_⟩, rfl⟩ <;> decide
theorem witness_StepKeepsInvariant :
    Inv liveState ∧ ∃ t, step liveState = .next t ∧ t.hw.cnt_accept = 2 :=
  ⟨liveState_inv, acceptFrame (liveState.setDrive []), rfl, by decide⟩
theorem witness_StepKeepsChecksumHeld :
    ChecksumHeld liveState ∧ liveState.hw.imu_valid = true ∧
    ∃ t, step liveState = .next t ∧ t.hw.FR.csum = 0xEC#8 :=
  ⟨fun _ _ => by decide, rfl, acceptFrame (liveState.setDrive []), rfl, by decide⟩
theorem witness_ReachableStatesStayInBounds : Reachable (resetAll liveState) :=
  .afterReset liveState _ rfl
theorem witness_WindowLengthOutputIsExact : Inv liveState := liveState_inv
theorem witness_ResolutionChainEndsWithinWindow :
    (∀ p ∈ List.replicate 5 (cwPins 0x1A4#11), p.rst = false ∧ p.sync_clr = false) ∧
    (win badSumWin).hw.W.length ≤ (List.replicate 5 (cwPins 0x1A4#11)).length := by decide
theorem witness_GarbageIsRejectedWithoutHanging :
    (drives (.wire [0x01#8, 0x02#8]) State.reset).env.drive = .wire [0x01#8, 0x02#8] :: [] ∧
    (∀ b ∈ [0x01#8, 0x02#8], b ≠ 0xA4#8) ∧ State.reset.hw.W = [] ∧
    State.reset.hw.cnt_struct < 2 ^ State.reset.cfg.cntW := by decide

/-- The cycles that offer `A4 03 00 00 A7` and one byte of the next candidate, with the cycle between
them in which the frame is accepted while that byte is held. -/
def frameCycles : List Pins :=
  [cwPins 0x1A4#11, cwPins 0x103#11, cwPins 0x100#11, cwPins 0x100#11, cwPins 0x1A7#11,
   cwPins 0x1A4#11, cwPins 0x1A4#11]

theorem witness_AcceptedFramesAreTheStreamParse :
    (∀ p ∈ frameCycles, p.rst = false ∧ p.sync_clr = false) ∧
    State.reset.hw.W = [] ∧ State.reset.pos = 0 ∧
    classify (clockRun frameCycles State.reset).hw.W = .pending ∧
    accepted frameCycles State.reset = [(0, [0xA4#8, 0x03#8, 0x00#8, 0x00#8, 0xA7#8])] ∧
    (clockRun frameCycles State.reset).hw.W = [0xA4#8] := by decide
theorem witness_ShortBufferHoldsNoFrame : [0xA4#8, 0x03#8, 0x00#8, 0x00#8].length < 5 := by decide

end Sys2Proof.Tests
end

section
/-! What the execution of one instruction writes outside the hardware (R7, R30, R44). -/

namespace Sys2Proof.Machine

/-- Every instruction answers a next state. On the select port it replaces what the consumer saw and
nothing else; on the other two ports it keeps the parameter and the whole environment. -/
theorem exec_next_cases (i : Instr) (s : State) :
    ∃ t, exec i s = .next t ∧
      (((encode i).port ≠ .sel ∧ SameOutside s t) ∨
       ((encode i).port = .sel ∧ ∃ o, t = s.setSeen o)) := by
  cases i with
  | reset => exact ⟨_, rfl, .inl ⟨nofun, resetAll_outside s⟩⟩
  | clear => exact ⟨_, rfl, .inl ⟨nofun, emptyWindow_outside s⟩⟩
  | accept => exact ⟨_, rfl, .inl ⟨nofun, acceptFrame_outside s⟩⟩
  | rejHdr | rejFunc | rejStart | rejCount =>
    exact ⟨_, rfl, .inl ⟨nofun, rejectStructural_outside _ s⟩⟩
  | rejCsum => exact ⟨_, rfl, .inl ⟨nofun, rejectChecksum_outside _ s⟩⟩
  | push b => exact ⟨_, rfl, .inl ⟨nofun, appendByte_outside b s⟩⟩
  | idle => exact ⟨_, rfl, .inl ⟨nofun, writeEvent_outside _ s⟩⟩
  | frame start pay => exact ⟨_, rfl, .inl ⟨nofun, feed_outside _ s⟩⟩
  | fieldAccX | fieldAccY | fieldAccZ | fieldGyrX | fieldGyrY | fieldGyrZ
  | fieldRoll | fieldPitch | fieldYaw | fieldCalib | fieldTemp
  | fieldMagX | fieldMagY | fieldMagZ | fieldQ0 | fieldQ1 | fieldQ2 | fieldQ3
  | selRsvd18 | selRsvd20 | selRsvd24 =>
    exact ⟨_, rfl, .inr ⟨rfl, _, rfl⟩⟩

/-- Settles O37: by the port, an instruction keeps all that stands outside the hardware, or writes
there only what the consumer saw. -/
theorem instructionsLeaveSurroundings : Obligations.InstructionsLeaveSurroundings := by
  intro i s t h
  obtain ⟨u, hu, houtside⟩ := exec_next_cases i s
  obtain rfl : u = t := Host.Outcome.next.inj (hu.symm.trans h)
  obtain ⟨-, hcfg, henv⟩ | ⟨hsel, o, rfl⟩ := houtside
  · exact ⟨hcfg, congrArg Env.drive henv, congrArg Env.tick henv, fun _ => henv⟩
  · exact ⟨setSeen_cfg s o, setSeen_drive s o, setSeen_tick s o, fun hport => absurd hsel hport⟩

end Sys2Proof.Machine
end

section
/-! What one step can do to the hardware: the clock cycle as a relation, the delivery of bytes as a
sequence of such cycles, and the induction principles that follow (R6, R57, R71). -/

namespace Sys2Proof.Machine

/-! ## Verdicts and what they say of the window -/

/-- A pending candidate leaves room for one more byte (R95). -/
theorem length_le_of_pending {W : List Byte} (h : classify W = .pending) : W.length ≤ 47 := by
  unfold classify at h
  split_ifs at h with hdr _ func _ start _ count range full
  · exact hdr.trans (by decide)
  · exact func.trans (by decide)
  · exact start.trans (by decide)
  · exact count.trans (by decide)
  · have hsum : (byteAt W 2).toNat + (byteAt W 3).toNat < 44 := not_le.1 range
    rw [frameLen_eq] at full
    omega

/-- A window with a verdict holds a byte. -/
theorem length_pos_of_not_pending {W : List Byte} (h : classify W ≠ .pending) : 0 < W.length :=
  List.length_pos_iff.2 fun hW => h (hW ▸ classify_nil)

/-- What VALID says of the candidate (R51, R73). -/
theorem of_classify_valid {W : List Byte} (h : classify W = .valid) :
    byteAt W 0 = Config.HDR ∧ byteAt W 1 = Config.FUNC ∧
    (byteAt W 2).toNat + (byteAt W 3).toNat < 44 ∧ frameLen W ≤ W.length ∧
    byteAt W (frameLen W - 1) = sum8 (W.take (frameLen W - 1)) := by
  unfold classify at h
  split_ifs at h with _ hdr _ func _ _ _ range full csum
  exact ⟨not_not.1 hdr, not_not.1 func, not_le.1 range, not_lt.1 full, csum.symm⟩

/-! ## One clock cycle -/

/-- A clock cycle performs the control instruction `i` in `s` and ends in `t`. Each instruction but RESET
and CLEAR stands under the verdict that selects it (R57, R58). -/
inductive ControlStep (s : State) : Instr → State → Prop where
  | reset : ControlStep s .reset (resetAll s)
  | clear : ControlStep s .clear (emptyWindow s)
  | idle (v : classify s.hw.W = .pending) : ControlStep s .idle (writeEvent evtNone s)
  | push (b : Byte) (v : classify s.hw.W = .pending) : ControlStep s (.push b) (appendByte b s)
  | accept (v : classify s.hw.W = .valid) : ControlStep s .accept (acceptFrame s)
  | rejHdr (v : classify s.hw.W = .rejHdr) : ControlStep s .rejHdr (rejectStructural evtRejHdr s)
  | rejFunc (v : classify s.hw.W = .rejFunc) : ControlStep s .rejFunc (rejectStructural evtRejFunc s)
  | rejStart (v : classify s.hw.W = .rejStart) :
      ControlStep s .rejStart (rejectStructural evtRejStart s)
  | rejCount (v : classify s.hw.W = .rejCount) :
      ControlStep s .rejCount (rejectStructural evtRejCount s)
  | rejCsum (v : classify s.hw.W = .rejCsum) : ControlStep s .rejCsum (rejectChecksum evtRejCsum s)

/-- Every control word performs the instruction it decodes to against the window. -/
theorem exec_decodeCw (s : State) (w : BitVec 11) :
    ∃ t, exec (decodeCw (classify s.hw.W) w) s = .next t ∧
      ControlStep s (decodeCw (classify s.hw.W) w) t := by
  unfold decodeCw
  split
  · exact ⟨_, rfl, .reset⟩
  split
  · exact ⟨_, rfl, .clear⟩
  cases v : classify s.hw.W with
  | valid => exact ⟨_, rfl, .accept v⟩
  | rejHdr => exact ⟨_, rfl, .rejHdr v⟩
  | rejFunc => exact ⟨_, rfl, .rejFunc v⟩
  | rejStart => exact ⟨_, rfl, .rejStart v⟩
  | rejCount => exact ⟨_, rfl, .rejCount v⟩
  | rejCsum => exact ⟨_, rfl, .rejCsum v⟩
  | pending =>
    dsimp only
    split
    · exact ⟨_, rfl, .push _ v⟩
    · exact ⟨_, rfl, .idle v⟩

/-- A driven cycle performs the instruction that its control word selects. -/
theorem step_cycle {s : State} {p : Pins} {ds : List Drive} (h : s.env.drive = .cycle p :: ds) :
    ∃ t, step s = .next t ∧
      ControlStep (s.setDrive ds) (decodeCw (classify s.hw.W) p.cw) t := by
  have hstep : step s = exec (decodeCw (classify s.hw.W) p.cw) (s.setDrive ds) := by
    simp [step, fetch, h, selected]
  exact hstep ▸ exec_decodeCw (s.setDrive ds) p.cw

/-- Bit 10 of the control word is the pin `rst` (R56). -/
@[simp] theorem cwRst_cw (p : Pins) : cwRst p.cw = p.rst := by
  simp only [cwRst, Pins.cw, BitVec.getLsbD_append]
  simp

/-- A control word selects RESET exactly if `rst` is 1 (R57). -/
theorem decodeCw_eq_reset_iff (v : Verdict) (p : Pins) :
    decodeCw v p.cw = .reset ↔ p.rst = true := by
  unfold decodeCw
  rw [cwRst_cw]
  split
  · next hr => exact iff_of_true rfl hr
  · next hr =>
    refine iff_of_false ?_ hr
    split
    · nofun
    · cases v with
      | pending => dsimp only; split <;> nofun
      | _ => nofun

/-! ## Resolution and delivery of bytes -/

/-- RESOLVE on a candidate that is not pending is a clock cycle. -/
theorem controlStep_resolve {s : State} (h : classify s.hw.W ≠ .pending) :
    ∃ i, ControlStep s i (resolve s) := by
  unfold resolve
  cases v : classify s.hw.W with
  | pending => exact absurd v h
  | valid => exact ⟨_, .accept v⟩
  | rejHdr => exact ⟨_, .rejHdr v⟩
  | rejFunc => exact ⟨_, .rejFunc v⟩
  | rejStart => exact ⟨_, .rejStart v⟩
  | rejCount => exact ⟨_, .rejCount v⟩
  | rejCsum => exact ⟨_, .rejCsum v⟩

/-- RESOLVE on a candidate that is not pending shortens the window (R87). -/
theorem resolve_length_lt {s : State} (h : classify s.hw.W ≠ .pending) :
    (resolve s).hw.W.length < s.hw.W.length := by
  have hpos := length_pos_of_not_pending h
  have hlen := five_le_frameLen s.hw.W
  obtain ⟨v, -⟩ | ⟨-, e⟩ | ⟨-, e⟩ | ⟨c, -, -, e⟩ := resolve_cases s
  · exact absurd v h
  all_goals
    rw [e]
    simp only [acceptFrame_hw, rejectChecksum_hw, rejectStructural_hw, List.length_drop]
    omega

/-- As many RESOLVE steps as the window has bytes leave the candidate pending (R87). -/
theorem resolveAll_pending (n : Nat) :
    ∀ s : State, s.hw.W.length ≤ n → classify (resolveAll n s).hw.W = .pending := by
  induction n with
  | zero =>
    intro s h
    rw [resolveAll, List.length_eq_zero_iff.1 (Nat.le_zero.1 h), classify_nil]
  | succ n ih =>
    intro s h
    unfold resolveAll
    split
    · assumption
    · next hv => exact ih _ (Nat.le_of_lt_succ ((resolve_length_lt hv).trans_le h))

/-- DRAIN leaves the candidate pending (R71). -/
theorem drain_pending (s : State) : classify (drain s).hw.W = .pending :=
  resolveAll_pending _ s le_rfl

section Delivery

variable {P : State → Prop}
  (hresolve : ∀ s, classify s.hw.W ≠ .pending → P s → P (resolve s))
  (hpush : ∀ b s, classify s.hw.W = .pending → P s → P (appendByte b s))

include hresolve

/-- What every RESOLVE step keeps, a resolution chain keeps. -/
theorem resolveAll_induction (n : Nat) : ∀ s : State, P s → P (resolveAll n s) := by
  induction n with
  | zero => exact fun _ h => h
  | succ n ih =>
    intro s h
    unfold resolveAll
    split
    · exact h
    · next hv => exact ih _ (hresolve s hv h)

include hpush

/-- What RESOLVE steps and PUSH steps on a pending candidate keep, the delivery of bytes keeps. -/
theorem feed_induction (bytes : List Byte) (s : State) (h : P s) : P (feed bytes s) := by
  refine resolveAll_induction hresolve _ _ ?_
  induction bytes generalizing s with
  | nil => exact h
  | cons b rest ih =>
    exact ih _ (hpush b _ (drain_pending s) (resolveAll_induction hresolve _ s h))

end Delivery

/-! ## One step of the machine -/

theorem fetch_hw (s : State) : (fetch s).2.hw = s.hw := by
  unfold fetch
  split <;> rfl

theorem fetch_cfg (s : State) : (fetch s).2.cfg = s.cfg := by
  unfold fetch
  split <;> rfl

/-- Every select code selects an instruction of the select port (R60, R61). -/
theorem decodeSel_port (k : BitVec 5) : (encode (decodeSel k)).port = .sel := by
  unfold decodeSel
  split_ifs with hk
  · cases decodeTable[k.toNat].1 <;> rfl
  all_goals rfl

/-- A field read replaces what the consumer saw and nothing else. -/
theorem exec_decodeSel (k : BitVec 5) (s : State) :
    ∃ o, exec (decodeSel k) s = .next (s.setSeen o) := by
  obtain ⟨t, ht, ⟨hport, -⟩ | ⟨-, o, rfl⟩⟩ := exec_next_cases (decodeSel k) s
  · exact absurd (decodeSel_port k) hport
  · exact ⟨o, ht⟩

/-- The wire decoder answers nothing but frames. -/
theorem decodeWire_eq_frame {bytes : List Byte} {i : Instr} (h : decodeWire bytes = .ok i) :
    ∃ start pay, i = .frame start pay := by
  unfold decodeWire at h
  split_ifs at h
  exact ⟨_, _, (Except.ok.inj h).symm⟩

/-- A step performs one clock cycle, delivers bytes, or shows the consumer a field; before it, only the
schedule has changed. -/
theorem step_cases {s t : State} (h : step s = .next t) :
    ∃ u : State, u.hw = s.hw ∧ u.cfg = s.cfg ∧
      ((∃ i, ControlStep u i t) ∨ (∃ bytes, t = feed bytes u) ∨ ∃ o, t = u.setSeen o) := by
  refine ⟨(fetch s).2, fetch_hw s, fetch_cfg s, ?_⟩
  unfold step at h
  generalize (fetch s).2 = u at h ⊢
  cases d : (fetch s).1 with
  | cycle p =>
    obtain ⟨t', ht', hctl⟩ := exec_decodeCw u p.cw
    rw [d] at h
    obtain rfl : t' = t := Host.Outcome.next.inj (ht'.symm.trans h)
    exact .inl ⟨_, hctl⟩
  | select k =>
    obtain ⟨o, ho⟩ := exec_decodeSel k u
    rw [d] at h
    exact .inr (.inr ⟨o, Host.Outcome.next.inj (h.symm.trans ho)⟩)
  | wire bytes =>
    rw [d] at h
    refine .inr (.inl ?_)
    cases hw : decodeWire bytes with
    | error e =>
      simp only [selected, hw] at h
      exact ⟨bytes, (Host.Outcome.next.inj h).symm⟩
    | ok i =>
      obtain ⟨start, pay, rfl⟩ := decodeWire_eq_frame hw
      simp only [selected, hw] at h
      exact ⟨frameBytes start pay, (Host.Outcome.next.inj h).symm⟩

/-- What depends on the hardware and the parameter alone and is kept by every clock cycle is kept by
every step, whatever is driven. -/
theorem step_induction {P : State → Prop}
    (hsame : ∀ s t : State, t.hw = s.hw → t.cfg = s.cfg → P s → P t)
    (hctl : ∀ {s i t}, ControlStep s i t → P s → P t)
    {s t : State} (hs : P s) (h : step s = .next t) : P t := by
  obtain ⟨u, hhw, hcfg, hcases⟩ := step_cases h
  have hu : P u := hsame s u hhw hcfg hs
  obtain ⟨i, hi⟩ | ⟨bytes, rfl⟩ | ⟨o, rfl⟩ := hcases
  · exact hctl hi hu
  · refine feed_induction (fun s v hs => ?_) (fun b s v => hctl (.push b v)) bytes u hu
    obtain ⟨i, hi⟩ := controlStep_resolve v
    exact hctl hi hs
  · exact hsame u _ rfl rfl hu

end Sys2Proof.Machine
end

section
/-! The invariants of the hardware: they hold after RESET, and every step keeps them (R19, R24, R33). -/

namespace Sys2Proof.Machine

/-! ## The bounds of the state -/

/-- The frame register after RESET holds zero payload bytes. -/
@[simp] theorem reset_pay (k : Nat) (h : k < Config.NFIELDS) :
    FrameReg.reset.pay[k] = 0x00#8 :=
  Vector.getElem_replicate h

/-- The event code of a cycle that reports nothing is in use (R63). -/
theorem evtNone_ne_seven : evtNone ≠ 7#3 := by decide

/-- RESET ends in a state that meets the invariant, whatever it starts from (R31). -/
theorem inv_resetAll (s : State) : Inv (resetAll s) where
  window := Nat.zero_le _
  count := Nat.zero_le _
  range := (by decide : 0 < 44)
  fill k _ := reset_pay k k.isLt
  event := evtNone_ne_seven
  short := nofun
  fresh _ := ⟨rfl, rfl⟩
  accepts := Nat.two_pow_pos _
  structs := Nat.two_pow_pos _
  csums := Nat.two_pow_pos _

/-- The invariant speaks of the hardware and the parameter alone. -/
theorem Inv.of_same {s t : State} (hhw : t.hw = s.hw) (hcfg : t.cfg = s.cfg) (h : Inv s) : Inv t := by
  constructor <;> simp only [hhw, hcfg]
  exacts [h.window, h.count, h.range, h.fill, h.event, h.short, h.fresh, h.accepts, h.structs, h.csums]

/-- A structural reject keeps the invariant. -/
theorem Inv.rejectStructural {s : State} {c : BitVec 3} (h : Inv s) (hc : c ≠ 7#3) :
    Inv (rejectStructural c s) :=
  { h with
    window := (List.drop_sublist 1 s.hw.W).length_le.trans h.window
    event := hc
    structs := countUp_lt _ _ }

/-- A checksum reject keeps the invariant. -/
theorem Inv.rejectChecksum {s : State} {c : BitVec 3} (h : Inv s) (hc : c ≠ 7#3) :
    Inv (rejectChecksum c s) :=
  { h with
    window := (List.drop_sublist 1 s.hw.W).length_le.trans h.window
    event := hc
    csums := countUp_lt _ _ }

/-- Accepting a valid candidate keeps the invariant: the frame loaded is in range by the checks of R73,
and the loader fills with zeros (R19). -/
theorem Inv.acceptFrame {s : State} (h : Inv s) (v : classify s.hw.W = .valid) :
    Inv (acceptFrame s) := by
  obtain ⟨-, -, hrange, -, -⟩ := of_classify_valid v
  exact {
    window := (List.drop_sublist _ s.hw.W).length_le.trans h.window
    count := show (byteAt s.hw.W 3).toNat ≤ 43 by omega
    range := hrange
    fill := fun k hk => (loadFrame_pay s.hw.W k k.isLt).trans (if_neg hk.not_gt)
    event := (by decide : evtAccept ≠ 7#3)
    short := fun _ => rfl
    fresh := nofun
    accepts := countUp_lt _ _
    structs := h.structs
    csums := h.csums }

/-- Every clock cycle keeps the invariant. -/
theorem ControlStep.inv {s t : State} {i : Instr} (hstep : ControlStep s i t) (h : Inv s) : Inv t := by
  cases hstep with
  | reset => exact inv_resetAll s
  | clear => exact { h with window := Nat.zero_le _, event := evtNone_ne_seven }
  | idle => exact { h with event := evtNone_ne_seven }
  | push b v =>
    have hroom : (s.hw.W ++ [b]).length ≤ 48 := by
      rw [List.length_append]
      exact Nat.add_le_add_right (length_le_of_pending v) 1
    exact { h with window := hroom, event := evtNone_ne_seven }
  | accept v => exact h.acceptFrame v
  | rejHdr | rejFunc | rejStart | rejCount => exact h.rejectStructural (by decide)
  | rejCsum => exact h.rejectChecksum (by decide)

/-- Settles O46: every clock cycle keeps the invariant, and a step is made of clock cycles. -/
theorem stepKeepsInvariant : Obligations.StepKeepsInvariant :=
  fun _ _ h hstep => step_induction (fun _ _ => Inv.of_same) ControlStep.inv h hstep

/-! ## The checksum of the frame register -/

/-- The first four bytes of a window that holds them. -/
theorem take_four {W : List Byte} (h : 4 ≤ W.length) :
    W.take 4 = [byteAt W 0, byteAt W 1, byteAt W 2, byteAt W 3] := by
  match W, h with
  | _ :: _ :: _ :: _ :: _, _ => rfl

/-- Where the register stores every payload byte of the candidate, it stores them as they stand in the
window (R19). -/
theorem loadFrame_pay_take {W : List Byte} (hcount : (byteAt W 3).toNat ≤ 18)
    (hlen : frameLen W ≤ W.length) :
    (loadFrame W).pay.toList.take (byteAt W 3).toNat = (W.drop 4).take (byteAt W 3).toNat := by
  rw [frameLen_eq] at hlen
  refine List.ext_getElem ?_ fun k hk hk' => ?_
  · simp only [List.length_take, Vector.length_toList, List.length_drop, Config.NFIELDS_eq]
    omega
  · have hlt : k < (byteAt W 3).toNat := by
      simp only [List.length_take] at hk
      omega
    have hW : 4 + k < W.length := by omega
    rw [List.getElem_take, List.getElem_take, Vector.getElem_toList, loadFrame_pay, List.getElem_drop]
    simp only [Config.OFF_COUNT_eq, Config.OFF_PAY_eq, if_pos hlt]
    exact List.getD_eq_getElem _ _ hW

/-- The bytes before the checksum of a valid candidate, read from the frame register (R51). -/
theorem take_frame_eq {W : List Byte} (v : classify W = .valid) (hcount : (byteAt W 3).toNat ≤ 18) :
    W.take (frameLen W - 1) =
      [Config.HDR, Config.FUNC, byteAt W 2, byteAt W 3]
        ++ (loadFrame W).pay.toList.take (byteAt W 3).toNat := by
  obtain ⟨hdr, func, -, hlen, -⟩ := of_classify_valid v
  have hfour : 4 ≤ W.length := by
    have := five_le_frameLen W
    omega
  have hsplit : frameLen W - 1 = 4 + (byteAt W 3).toNat := by
    rw [frameLen_eq]
    omega
  rw [hsplit, List.take_add, take_four hfour, loadFrame_pay_take hcount hlen, hdr, func]

/-- Every clock cycle keeps the checksum of the frame register right: RESET empties the register, ACCEPT
loads a frame that passed the check, and no other cycle writes it. -/
theorem ControlStep.checksumHeld {s t : State} {i : Instr} (hstep : ControlStep s i t)
    (h : ChecksumHeld s) : ChecksumHeld t := by
  cases hstep with
  | reset => exact nofun
  | accept v =>
    obtain ⟨-, -, -, -, hsum⟩ := of_classify_valid v
    exact fun _ hcount => hsum.trans (congrArg sum8 (take_frame_eq v hcount))
  | clear | idle | push | rejHdr | rejFunc | rejStart | rejCount | rejCsum => exact h

/-- Settles O47: every clock cycle keeps the checksum right, and a step is made of clock cycles. -/
theorem stepKeepsChecksumHeld : Obligations.StepKeepsChecksumHeld :=
  fun _ _ h hstep =>
    step_induction (fun _ _ hhw _ hs => by rw [ChecksumHeld, hhw]; exact hs)
      ControlStep.checksumHeld h hstep

/-! ## Reset and reachable states -/

/-- Settles O45: the state after reset is a state right after RESET. -/
theorem invariantHoldsAtReset : Obligations.InvariantHoldsAtReset :=
  ⟨inv_resetAll State.reset, nofun⟩

/-- Every reachable state meets the invariant. -/
theorem Reachable.inv {s : State} (h : Reachable s) : Inv s := by
  induction h with
  | afterReset s t h => exact Host.Outcome.next.inj h ▸ inv_resetAll s
  | afterStep s t _ h ih => exact stepKeepsInvariant s t ih h

/-- Settles O48: the bounds are part of the invariant. -/
theorem reachableStatesStayInBounds : Obligations.ReachableStatesStayInBounds :=
  fun _ h => ⟨h.inv.count, h.inv.range, h.inv.window, h.inv.event⟩

/-- Settles O49: a length of at most 48 fits in six bits. -/
theorem windowLengthOutputIsExact : Obligations.WindowLengthOutputIsExact := by
  intro s p h
  have hwin : s.hw.W.length < 2 ^ 6 := h.window.trans_lt (by decide)
  exact (BitVec.toNat_ofNat _ 6).trans (Nat.mod_eq_of_lt hwin)

/-- Settles O1: RESET writes the hardware state of `State.reset`. -/
theorem resetStateHoldsSpecValues : Obligations.ResetStateHoldsSpecValues :=
  ⟨rfl, rfl, rfl, rfl, fun k => reset_pay k k.isLt, rfl, rfl, rfl, rfl, rfl, rfl,
    fun s => ⟨resetAll s, rfl, resetAll_hw s⟩⟩

/-- Settles O6: the outputs are those of the reset values. -/
theorem resetOutputsAreZeroAndReady : Obligations.ResetOutputsAreZeroAndReady :=
  fun s => ⟨resetAll s, rfl, by rw [resetAll_hw]; decide⟩

/-! ## Events and counters -/

/-- The event code of a control instruction (R23, R63). -/
def eventCode (i : Instr) : BitVec 3 :=
  match i with
  | .accept => evtAccept
  | .rejHdr => evtRejHdr
  | .rejFunc => evtRejFunc
  | .rejStart => evtRejStart
  | .rejCount => evtRejCount
  | .rejCsum => evtRejCsum
  | _ => evtNone

theorem eventCode_ne_seven (i : Instr) : eventCode i ≠ 7#3 := by
  unfold eventCode
  split <;> decide

/-- After a clock cycle `evt` is the code of the instruction performed. -/
theorem ControlStep.evt_eq {s t : State} {i : Instr} (h : ControlStep s i t) :
    t.hw.evt = eventCode i := by
  cases h <;> rfl

/-- Settles O40: a driven cycle performs the instruction selected and writes its event code. -/
theorem eventReportsTheStep : Obligations.EventReportsTheStep := by
  intro s p ds h
  obtain ⟨t, ht, hctl⟩ := step_cycle h
  refine ⟨t, ht, ?_⟩
  rw [hctl.evt_eq]
  refine ⟨eventCode_ne_seven _, congrArg eventCode, congrArg eventCode, congrArg eventCode,
    congrArg eventCode, congrArg eventCode, congrArg eventCode, ?_⟩
  rintro (hi | hi | hi | ⟨b, hi⟩) <;> exact congrArg eventCode hi

/-- In every clock cycle but RESET each counter counts its events and keeps its value otherwise. -/
theorem ControlStep.counters {s t : State} {i : Instr} (h : ControlStep s i t) (hi : i ≠ .reset) :
    t.hw.cnt_accept =
      (if t.hw.evt = 1#3 then (s.hw.cnt_accept + 1) % 2 ^ s.cfg.cntW else s.hw.cnt_accept) ∧
    t.hw.cnt_struct =
      (if t.hw.evt = 2#3 ∨ t.hw.evt = 3#3 ∨ t.hw.evt = 4#3 ∨ t.hw.evt = 5#3
        then (s.hw.cnt_struct + 1) % 2 ^ s.cfg.cntW else s.hw.cnt_struct) ∧
    t.hw.cnt_csum =
      (if t.hw.evt = 6#3 then (s.hw.cnt_csum + 1) % 2 ^ s.cfg.cntW else s.hw.cnt_csum) := by
  cases h with
  | reset => exact absurd rfl hi
  | clear | idle | push | accept | rejHdr | rejFunc | rejStart | rejCount | rejCsum =>
    exact ⟨rfl, rfl, rfl⟩

/-- Settles O41: a driven cycle with `rst` is RESET; any other one counts its event. -/
theorem countersCountTheirEvents : Obligations.CountersCountTheirEvents := by
  intro s p ds h
  obtain ⟨t, ht, hctl⟩ := step_cycle h
  refine ⟨t, ht, fun hrst => ?_, fun hrst => hctl.counters fun hi => ?_⟩
  · rw [(decodeCw_eq_reset_iff _ p).2 hrst] at hctl
    cases hctl
    exact ⟨rfl, rfl, rfl⟩
  · exact absurd ((decodeCw_eq_reset_iff _ p).1 hi) (by simp [hrst])

/-! ## The life of `imu_valid` -/

/-- RESOLVE does not clear `imu_valid`. -/
theorem resolve_imu_valid {s : State} (h : s.hw.imu_valid = true) :
    (resolve s).hw.imu_valid = true := by
  obtain ⟨-, e⟩ | ⟨-, e⟩ | ⟨-, e⟩ | ⟨c, -, -, e⟩ := resolve_cases s <;> rw [e]
  · exact h
  · rfl
  · exact h
  · exact h

/-- No instruction but RESET clears `imu_valid`, be it selected or not. -/
theorem exec_imu_valid {i : Instr} {s t : State} (hi : i ≠ .reset) (h : exec i s = .next t)
    (hs : s.hw.imu_valid = true) : t.hw.imu_valid = true := by
  cases i with
  | reset => exact absurd rfl hi
  | frame start pay =>
    obtain rfl := Host.Outcome.next.inj h
    exact feed_induction (P := fun s => s.hw.imu_valid = true)
      (fun _ _ => resolve_imu_valid) (fun _ _ _ hs => hs) _ s hs
  | accept =>
    obtain rfl := Host.Outcome.next.inj h
    rfl
  | clear | rejHdr | rejFunc | rejStart | rejCount | rejCsum | push | idle
  | fieldAccX | fieldAccY | fieldAccZ | fieldGyrX | fieldGyrY | fieldGyrZ
  | fieldRoll | fieldPitch | fieldYaw | fieldCalib | fieldTemp
  | fieldMagX | fieldMagY | fieldMagZ | fieldQ0 | fieldQ1 | fieldQ2 | fieldQ3
  | selRsvd18 | selRsvd20 | selRsvd24 =>
    obtain rfl := Host.Outcome.next.inj h
    exact hs

/-- Every select reads zero from the frame register after RESET. -/
theorem mux_reset (k : BitVec 5) :
    (mux FrameReg.reset k).fld_raw = 0x00#8 ∧ (mux FrameReg.reset k).fld_f64 = 0#64 := by
  unfold mux
  split
  · next hk =>
    have hpay : FrameReg.reset.pay[(⟨k.toNat, hk⟩ : Fin Config.NFIELDS)] = 0x00#8 := reset_pay _ hk
    rw [offsetOut, hpay]
    exact ⟨rfl, rfl⟩
  · exact ⟨rfl, rfl⟩

/-- Settles O42: RESET clears `imu_valid`, ACCEPT sets it, nothing else clears it, and while it is 0 the
invariant keeps the frame register at its reset value. -/
theorem imuValidLastsUntilReset : Obligations.ImuValidLastsUntilReset := by
  refine ⟨fun s => ⟨_, rfl, rfl⟩, fun s _ => ⟨_, rfl, rfl⟩, fun s => ⟨_, rfl, rfl⟩,
    fun i s t hi h hs => exec_imu_valid hi h hs, fun s p hinv hs => ?_⟩
  obtain ⟨hFR, -⟩ := hinv.fresh hs
  have hfld : (outputs s.hw p).fld = mux FrameReg.reset p.sel := congrArg (mux · p.sel) hFR
  rw [hfld]
  exact mux_reset p.sel

end Sys2Proof.Machine
end

section
/-! What a field read shows the consumer, by its select code (R44, R60, R61, R101). -/

namespace Sys2Proof.Machine

/-- The multiplexer below the number of fields: the field at that payload offset (R101). -/
theorem mux_of_lt (FR : FrameReg) {k : BitVec 5} (h : k.toNat < Config.NFIELDS) :
    mux FR k = offsetOut FR ⟨k.toNat, h⟩ := dif_pos h

/-- The multiplexer at a reserved select (R102). -/
theorem mux_of_not_lt (FR : FrameReg) {k : BitVec 5} (h : ¬ k.toNat < Config.NFIELDS) :
    mux FR k = reservedOut := dif_neg h

/-- The read of a field, executed, is the consumer's read of that field. -/
theorem exec_fieldRead (f : Field) (s : State) : exec (fieldRead f) s = .next (seeField f s) := by
  cases f <;> rfl

/-- The field at place `k` of the decode table shows the byte at payload offset `k` (R97). -/
theorem seeField_decodeTable (k : Fin Config.NFIELDS) (s : State) :
    seeField decodeTable[k].1 s = s.setSeen (offsetOut s.hw.FR k) := by
  rw [seeField, fieldOffset_decodeTable]

/-- The instruction that a select code decodes to shows the multiplexer's output for that code. -/
theorem exec_decodeSel_eq_mux (k : BitVec 5) (s : State) :
    exec (decodeSel k) s = .next (s.setSeen (mux s.hw.FR k)) := by
  unfold decodeSel
  split_ifs with hk
  · rw [mux_of_lt _ hk, exec_fieldRead]
    exact congrArg _ (seeField_decodeTable ⟨k.toNat, hk⟩ s)
  all_goals
    rw [mux_of_not_lt _ hk]
    rfl

/-- Settles O17: the field outputs are the multiplexer's at the pins `sel`. -/
theorem fieldReadsShowMultiplexerOutputs : Obligations.FieldReadsShowMultiplexerOutputs :=
  fun s p => exec_decodeSel_eq_mux p.sel s

end Sys2Proof.Machine
end

section
/-! Decoders and encoder held against each other: the words of the control and select ports (R56, R57,
R60), and the layout of a frame (R51). -/

namespace Sys2Proof

open Sys2Proof.Machine

/-- Zero bits in front of a word add nothing to its value. -/
theorem toNat_zero_append_lt (m : Nat) {n : Nat} (x : BitVec n) : (0#m ++ x).toNat < 2 ^ n := by
  simp [BitVec.toNat_append, x.isLt]

/-! ## The control word: three control bits above `in_byte` -/

/-- A control word is its three upper bits and its low byte. -/
theorem cw_split (w : BitVec 11) : w.extractLsb' 8 3 ++ w.extractLsb' 0 8 = w :=
  (BitVec.extractLsb'_append_extractLsb'_eq_extractLsb' (len₂ := 3) (len₁ := 8) rfl).trans
    BitVec.extractLsb'_eq_self

@[simp] theorem cwRst_append (x : BitVec 3) (b : Byte) : cwRst (x ++ b) = x.getLsbD 2 :=
  BitVec.getLsbD_append

@[simp] theorem cwClr_append (x : BitVec 3) (b : Byte) : cwClr (x ++ b) = x.getLsbD 1 :=
  BitVec.getLsbD_append

@[simp] theorem cwValid_append (x : BitVec 3) (b : Byte) : cwValid (x ++ b) = x.getLsbD 0 :=
  BitVec.getLsbD_append

@[simp] theorem cwByte_append (x : BitVec 3) (b : Byte) : cwByte (x ++ b) = b :=
  BitVec.extractLsb'_append_eq_right

/-- Bit 9 of the control word is the pin `sync_clr` (R56). -/
@[simp] theorem cwClr_cw (p : Pins) : cwClr p.cw = p.sync_clr := by
  rw [Pins.cw, cwClr_append]
  cases p.rst <;> cases p.sync_clr <;> cases p.in_valid <;> rfl

/-- Bit 8 of the control word is the pin `in_valid` (R56). -/
@[simp] theorem cwValid_cw (p : Pins) : cwValid p.cw = p.in_valid := by
  rw [Pins.cw, cwValid_append]
  cases p.rst <;> cases p.sync_clr <;> cases p.in_valid <;> rfl

/-- The low byte of the control word is the pins `in_byte` (R56). -/
@[simp] theorem cwByte_cw (p : Pins) : cwByte p.cw = p.in_byte := cwByte_append _ _

/-- A control word fits a row whose mask leaves `in_byte` free if its control bits fit. -/
theorem fits_cw {m t : BitVec 3} {x : BitVec 3} (b : Byte) (h : x &&& m = t) :
    (TableRow.cw11 (t ++ 0#8) (m ++ 0#8)).fits (.cw (x ++ b)) = true := by
  have hw : x ++ b &&& m ++ 0#8 = t ++ 0#8 := by rw [BitVec.and_append, h, BitVec.and_zero]
  exact decide_eq_true hw

/-- Every control word fits the table row of the operation it selects, whatever the window (R57, R64). -/
theorem fits_decodeCw (v : Verdict) (w : BitVec 11) :
    (tableRow (decodeCw v w)).fits (.cw w) = true := by
  obtain ⟨x, b, rfl⟩ : ∃ (x : BitVec 3) (b : Byte), x ++ b = w := ⟨_, _, cw_split w⟩
  unfold decodeCw
  rw [cwRst_append, cwClr_append, cwValid_append]
  split
  · exact fits_cw (m := 4#3) (t := 4#3) b (by revert x; decide)
  split
  · exact fits_cw (m := 6#3) (t := 2#3) b (by revert x; decide)
  cases v with
  | pending =>
    dsimp only
    split
    · exact fits_cw (m := 7#3) (t := 1#3) b (by revert x; decide)
    · exact fits_cw (m := 7#3) (t := 0#3) b (by revert x; decide)
  | _ => exact fits_cw (m := 6#3) (t := 0#3) b (by revert x; decide)

/-- The bytes of a control word decode to the operation the word selects (log 4). -/
theorem decode_cw_bytes (v : Verdict) (w : BitVec 11) :
    decode .cw v (PortWord.cw w).bytes = .ok (decodeCw v w) := by
  have hpad : (0#5 ++ w.extractLsb' 8 3).toNat < 8 := toNat_zero_append_lt _ _
  have hword : (0#5 ++ w.extractLsb' 8 3).extractLsb' 0 3 ++ w.extractLsb' 0 8 = w := by
    rw [BitVec.extractLsb'_append_eq_right, cw_split]
  simp only [decode, PortWord.bytes, if_pos hpad, hword]

/-! ## The select code -/

/-- The byte of a select code decodes to the field read the code selects (log 4). -/
theorem decode_sel_bytes (v : Verdict) (k : BitVec 5) :
    decode .sel v (PortWord.sel k).bytes = .ok (decodeSel k) := by
  have hpad : (0#3 ++ k).toNat < 32 := toNat_zero_append_lt _ _
  have hword : (0#3 ++ k).extractLsb' 0 5 = k := BitVec.extractLsb'_append_eq_right
  simp only [decode, PortWord.bytes, if_pos hpad, hword]

/-- The read of a field is encoded as the field's select code (R60). -/
theorem encode_fieldRead (f : Field) : encode (fieldRead f) = .sel (fieldSel f) := by
  cases f <;> rfl

/-- A select code is the encoding of the field read it decodes to: by the decode table below 18 (R60),
and in the three reserved ranges above (R61). -/
theorem encode_decodeSel (k : BitVec 5) : encode (decodeSel k) = .sel k := by
  unfold decodeSel
  split_ifs with hk h20 h24
  · have hplace : fieldOffset decodeTable[k.toNat].1 = ⟨k.toNat, hk⟩ :=
      fieldOffset_decodeTable ⟨k.toNat, hk⟩
    rw [encode_fieldRead, fieldSel, hplace, BitVec.ofNat_toNat, BitVec.setWidth_eq]
  all_goals
    refine congrArg PortWord.sel ?_
    revert k
    decide

/-! ## The frame -/

/-- A frame is well-formed exactly if its last register is in range: the start register is then, too. -/
theorem wellFormed_frame_iff {start : Byte} {pay : List Byte} :
    (Instr.frame start pay).wellFormed = true ↔ start.toNat + pay.length < 44 := by
  simp only [Instr.wellFormed, Config.REG_LIMIT_eq, Bool.and_eq_true, decide_eq_true_eq]
  omega

/-- The bytes of a well-formed frame have the layout of R51. -/
theorem isFrame_frameBytes {start : Byte} {pay : List Byte}
    (h : (Instr.frame start pay).wellFormed = true) : isFrame (frameBytes start pay) = true :=
  Laws.EncodingMatchesTable.frame start pay h

/-- The layout of R51, with its literals. -/
theorem isFrame_iff {bytes : List Byte} : isFrame bytes = true ↔
    bytes.length = frameCount bytes + 5 ∧ bytes.getD 0 0#8 = Config.HDR ∧
      bytes.getD 1 0#8 = Config.FUNC ∧ (frameStart bytes).toNat < 44 ∧
      (frameStart bytes).toNat + frameCount bytes < 44 ∧ checksumOk bytes = true := by
  simp only [isFrame, Bool.and_eq_true, decide_eq_true_eq, and_assoc]

/-- The wire decoder takes exactly the bytes with the layout of R51, and reads the frame off them. -/
theorem decodeWire_eq_ok_iff {bytes : List Byte} {i : Instr} : decodeWire bytes = .ok i ↔
    isFrame bytes = true ∧
      i = .frame (frameStart bytes) ((bytes.drop 4).take (frameCount bytes)) := by
  rw [isFrame_iff]
  constructor
  · intro h
    unfold decodeWire at h
    split_ifs at h with _ hdr func start range short long csum
    exact ⟨⟨le_antisymm (not_lt.1 long) (not_lt.1 short), not_not.1 hdr, not_not.1 func, not_le.1 start,
      not_le.1 range, csum⟩, (Except.ok.inj h).symm⟩
  · rintro ⟨⟨hlen, hdr, func, start, range, csum⟩, rfl⟩
    have hfour : ¬ bytes.length < 4 := by omega
    unfold decodeWire
    rw [if_neg hfour, if_neg (not_not.2 hdr), if_neg (not_not.2 func), if_neg (not_le.2 start),
      if_neg (not_le.2 range), if_neg hlen.not_lt, if_neg hlen.not_gt, if_pos csum]

/-- The bytes of a well-formed frame decode to it. -/
theorem decodeWire_frameBytes {start : Byte} {pay : List Byte}
    (h : (Instr.frame start pay).wellFormed = true) :
    decodeWire (frameBytes start pay) = .ok (.frame start pay) := by
  have hcount : pay.length < 256 := by
    have := wellFormed_frame_iff.1 h
    omega
  rw [decodeWire_eq_ok_iff, frameBytes_start, frameBytes_count start hcount]
  exact ⟨isFrame_frameBytes h, congrArg _ (frameBytes_payload start pay).symm⟩

/-- Settles O26: by the port of the instruction; the word on it is read back whole, and the bits of the
word select the instruction. -/
theorem decodeOfEncodeIsIdentity : Obligations.DecodeOfEncodeIsIdentity := by
  intro i h
  cases i with
  | frame start pay => exact decodeWire_frameBytes h
  | reset | clear | accept | rejHdr | rejFunc | rejStart | rejCount | rejCsum | idle =>
    exact decode_cw_bytes _ _
  | push b =>
    exact (decode_cw_bytes _ _).trans (by simp [decodeCw, selectingVerdict])
  | fieldAccX | fieldAccY | fieldAccZ | fieldGyrX | fieldGyrY | fieldGyrZ
  | fieldRoll | fieldPitch | fieldYaw | fieldCalib | fieldTemp
  | fieldMagX | fieldMagY | fieldMagZ | fieldQ0 | fieldQ1 | fieldQ2 | fieldQ3 =>
    exact decode_sel_bytes _ _
  | selRsvd18 lo | selRsvd20 lo | selRsvd24 lo =>
    refine (decode_sel_bytes _ _).trans (congrArg _ ?_)
    revert lo
    decide

end Sys2Proof
end

section
/-! The layout of a frame as the encoder writes it, the wire decoder reads it and the window classifies it
(R51, R52, R73). -/

namespace Sys2Proof

open Sys2Proof.Machine

/-- The checks that make a candidate VALID (R51, R73). -/
theorem classify_eq_valid_iff {W : List Byte} : classify W = .valid ↔
    byteAt W 0 = Config.HDR ∧ byteAt W 1 = Config.FUNC ∧
    (byteAt W 2).toNat + (byteAt W 3).toNat < 44 ∧ frameLen W ≤ W.length ∧
    byteAt W (frameLen W - 1) = sum8 (W.take (frameLen W - 1)) := by
  refine ⟨of_classify_valid, fun ⟨hdr, func, range, full, csum⟩ => ?_⟩
  have hlen := five_le_frameLen W
  have start : ¬ 44 ≤ (byteAt W 2).toNat := by omega
  have present : ∀ k < 5, ¬ W.length ≤ k := fun k hk => by omega
  unfold classify
  rw [if_neg (present 0 (by decide)), if_neg (not_not.2 hdr), if_neg (present 1 (by decide)),
    if_neg (not_not.2 func), if_neg (present 2 (by decide)), if_neg start,
    if_neg (present 3 (by decide)), if_neg (not_le.2 range), if_neg (not_lt.2 full),
    if_pos csum.symm]

/-- Bytes have the layout of R51 exactly if they are a VALID candidate and nothing more. -/
theorem isFrame_iff_valid {bytes : List Byte} :
    isFrame bytes = true ↔ classify bytes = .valid ∧ bytes.length = frameLen bytes := by
  have hbody : frameLen bytes - 1 = 4 + frameCount bytes := Nat.add_comm _ _
  rw [isFrame_iff, classify_eq_valid_iff, hbody, checksumOk, decide_eq_true_eq]
  constructor
  · rintro ⟨hlen, hdr, func, -, range, csum⟩
    exact ⟨⟨hdr, func, range, hlen.ge, csum.symm⟩, hlen⟩
  · rintro ⟨⟨hdr, func, range, -, csum⟩, hlen⟩
    exact ⟨hlen, hdr, func, (Nat.le_add_right _ _).trans_lt range, range, csum.symm⟩

/-- A VALID window is the frame read off it by the layout of R51, followed by the rest. -/
theorem frameBytes_append_of_valid {W : List Byte} (v : classify W = .valid) :
    frameBytes (byteAt W 2) ((W.drop 4).take (byteAt W 3).toNat) ++ W.drop (frameLen W) = W := by
  obtain ⟨hdr, func, -, full, csum⟩ := of_classify_valid v
  have hlen : frameLen W = 4 + (byteAt W 3).toNat + 1 := by rw [frameLen_eq]; omega
  rw [hlen, Nat.add_sub_cancel] at csum
  rw [hlen] at full ⊢
  have hpay : ((W.drop 4).take (byteAt W 3).toNat).length = (byteAt W 3).toNat := by
    rw [List.length_take, List.length_drop]
    omega
  have hbody : frameBody (byteAt W 2) ((W.drop 4).take (byteAt W 3).toNat) =
      W.take (4 + (byteAt W 3).toNat) := by
    rw [List.take_add, take_four (by omega), hdr, func, frameBody, hpay, BitVec.ofNat_toNat,
      BitVec.setWidth_eq]
    rfl
  have hlast : byteAt W (4 + (byteAt W 3).toNat) = W[4 + (byteAt W 3).toNat] :=
    List.getD_eq_getElem _ _ full
  rw [frameBytes, hbody, ← csum, hlast, List.take_append_getElem, List.take_append_drop]

/-- Bytes with the layout of R51 are those of the frame read off them. -/
theorem frameBytes_of_isFrame {bytes : List Byte} (h : isFrame bytes = true) :
    frameBytes (frameStart bytes) ((bytes.drop 4).take (frameCount bytes)) = bytes := by
  obtain ⟨v, hlen⟩ := isFrame_iff_valid.1 h
  have hbytes := frameBytes_append_of_valid v
  rwa [← hlen, List.drop_length, List.append_nil] at hbytes

/-- The frame read off a VALID window is well-formed. -/
theorem wellFormed_of_valid {W : List Byte} (v : classify W = .valid) :
    (Instr.frame (byteAt W 2) ((W.drop 4).take (byteAt W 3).toNat)).wellFormed = true := by
  obtain ⟨-, -, range, -, -⟩ := of_classify_valid v
  exact wellFormed_frame_iff.2
    ((Nat.add_le_add_left (List.length_take_le _ _) _).trans_lt range)

/-- Settles O27: row by row for the control words; the two other decoders are inverted by `encode`. -/
theorem everyWordFitsItsOperation : Obligations.EveryWordFitsItsOperation := by
  refine ⟨fits_decodeCw, encode_decodeSel, fun bytes i h => ?_⟩
  obtain ⟨hframe, rfl⟩ := decodeWire_eq_ok_iff.1 h
  exact ⟨wellFormed_of_valid (isFrame_iff_valid.1 hframe).1,
    congrArg PortWord.wire (frameBytes_of_isFrame hframe)⟩

/-- Settles O28: the layout of R51 is what the wire decoder checks. -/
theorem wireDecoderTakesExactlyFrames : Obligations.WireDecoderTakesExactlyFrames := by
  intro bytes
  have hok : (∃ i, decodeWire bytes = .ok i) ↔ isFrame bytes = true :=
    ⟨fun ⟨_, h⟩ => (decodeWire_eq_ok_iff.1 h).1, fun h => ⟨_, decodeWire_eq_ok_iff.2 ⟨h, rfl⟩⟩⟩
  rw [hok, isFrame_iff, checksumOk, decide_eq_true_eq, eq_comm (a := sum8 _), Config.OFF_PAY_eq,
    Nat.add_comm 4]
  rfl

/-- Settles O25: by the length and the count byte of a frame's bytes. -/
theorem frameLengthsAreLegal : Obligations.FrameLengthsAreLegal := by
  refine ⟨fun start pay h => ?_, fun start h => ⟨wellFormed_frame_iff.2 (Nat.lt_succ_of_le h), ?_⟩⟩
  · have range := wellFormed_frame_iff.1 h
    have hcount : frameCount (frameBytes start pay) = pay.length :=
      frameBytes_count start (by omega)
    rw [frameBytes_length]
    exact ⟨rfl, hcount, by omega, by omega, by omega, by omega, by omega⟩
  · have hsum : sum8 (frameBody start []) = 0xA7#8 + start := by
      simp only [frameBody, sum8_cons, sum8_nil, List.length_nil, BitVec.add_zero]
      rw [← BitVec.add_assoc]
      rfl
    rw [frameBytes, hsum]
    rfl

/-- Settles O29: the decoders evaluate to the instructions named. -/
theorem specWordsDecodeAsTheyRead : Obligations.SpecWordsDecodeAsTheyRead :=
  ⟨rfl, rfl, rfl, rfl, rfl, rfl, rfl, rfl, rfl, rfl⟩

/-- A check of `classify` that has been made once keeps its result: the bytes it looks at are still
present, and it says of them what it said before. -/
theorem check_congr {absent absent' fails fails' : Prop} [Decidable absent] [Decidable absent']
    [Decidable fails] [Decidable fails'] {r v v' : Verdict}
    (h : (if absent then .pending else if fails then r else v) ≠ .pending)
    (habsent : absent' → absent) (hfails : ¬ absent → (fails' ↔ fails))
    (hrest : ¬ absent → ¬ fails → v ≠ .pending → v' = v) :
    (if absent' then .pending else if fails' then r else v') =
      if absent then .pending else if fails then r else v := by
  by_cases ha : absent
  · exact absurd (if_pos ha) h
  rw [if_neg ha] at h
  rw [if_neg ha, if_neg (ha ∘ habsent)]
  refine ite_congr (propext (hfails ha)) (fun _ => rfl) fun hf => ?_
  rw [if_neg hf] at h
  exact hrest ha hf h

/-- A verdict once reached stands, whatever bytes follow (R76). -/
theorem classify_append {W : List Byte} (X : List Byte) (h : classify W ≠ .pending) :
    classify (W ++ X) = classify W := by
  have keep : ∀ {k}, ¬ W.length ≤ k → byteAt (W ++ X) k = byteAt W k :=
    fun hk => byteAt_append_left X (not_le.1 hk)
  have longer : W.length ≤ (W ++ X).length := (List.sublist_append_left W X).length_le
  refine check_congr h longer.trans (fun h0 => by rw [keep h0]) fun _ _ h => ?_
  refine check_congr h longer.trans (fun h1 => by rw [keep h1]) fun _ _ h => ?_
  refine check_congr h longer.trans (fun h2 => by rw [keep h2]) fun h2 _ h => ?_
  refine check_congr h longer.trans (fun h3 => by rw [keep h2, keep h3]) fun h3 _ h => ?_
  rw [frameLen_append X (not_le.1 h3)]
  refine check_congr h longer.trans_lt (fun full => ?_) fun _ _ _ => rfl
  have hlast : frameLen W - 1 < W.length := by
    have := five_le_frameLen W
    omega
  rw [keep (not_le.2 hlast), List.take_append_of_le_length hlast.le]

/-- A well-formed frame, whatever follows it, is a VALID candidate (R51, R73). -/
theorem classify_frameBytes_append {start : Byte} {pay : List Byte}
    (h : (Instr.frame start pay).wellFormed = true) (rest : List Byte) :
    classify (frameBytes start pay ++ rest) = .valid := by
  have v : classify (frameBytes start pay) = .valid :=
    (isFrame_iff_valid.1 (isFrame_frameBytes h)).1
  rw [classify_append rest (v ▸ nofun), v]

/-- Settles O34: a VALID window is the frame read off it and the rest, and no byte behind a frame
changes its verdict. -/
theorem validWindowBeginsWithFrame : Obligations.ValidWindowBeginsWithFrame := by
  refine fun W => ⟨fun v => ⟨_, _, _, wellFormed_of_valid v, (frameBytes_append_of_valid v).symm⟩, ?_⟩
  rintro ⟨start, pay, rest, h, rfl⟩
  exact classify_frameBytes_append h rest

end Sys2Proof
end

section
/-! The operation a clock cycle selects (R57, R58, R59), and what a step does with what is driven (R6, R70). -/

namespace Sys2Proof.Machine

/-! ## Operation selection by the pins -/

/-- The RESOLVE variant of each verdict (R58); a pending candidate has none, and its cycle without a byte
is IDLE. -/
def resolution (v : Verdict) : Instr :=
  match v with
  | .pending => .idle
  | .valid => .accept
  | .rejHdr => .rejHdr
  | .rejFunc => .rejFunc
  | .rejStart => .rejStart
  | .rejCount => .rejCount
  | .rejCsum => .rejCsum

/-- Row 2 of R57. -/
theorem decodeCw_clear {p : Pins} (hr : p.rst = false) (hc : p.sync_clr = true) (v : Verdict) :
    decodeCw v p.cw = .clear := by
  simp [decodeCw, hr, hc]

/-- Row 3 of R57, and row 5 where the candidate is pending. -/
theorem decodeCw_resolution {p : Pins} (hr : p.rst = false) (hc : p.sync_clr = false) {v : Verdict}
    (h : v = .pending → p.in_valid = false) : decodeCw v p.cw = resolution v := by
  cases v with
  | pending => simp [decodeCw, resolution, hr, hc, h rfl]
  | _ => simp [decodeCw, resolution, hr, hc]

/-- Row 4 of R57. -/
theorem decodeCw_push {p : Pins} (hr : p.rst = false) (hc : p.sync_clr = false)
    (hv : p.in_valid = true) : decodeCw .pending p.cw = .push p.in_byte := by
  simp [decodeCw, hr, hc, hv]

/-- `in_ready` is 1 with a pending candidate and both controls 0 (R29). -/
theorem inReady_iff {h : Hw} {p : Pins} :
    inReady h p = true ↔ classify h.W = .pending ∧ p.rst = false ∧ p.sync_clr = false := by
  simp [inReady, and_assoc]

/-- A cycle that selects IDLE or PUSH has both controls 0 and a pending candidate. -/
theorem running_of_idle_or_push {v : Verdict} {p : Pins}
    (h : decodeCw v p.cw = .idle ∨ ∃ b, decodeCw v p.cw = .push b) :
    v = .pending ∧ p.rst = false ∧ p.sync_clr = false := by
  cases hr : p.rst with
  | true => simp [(decodeCw_eq_reset_iff v p).2 hr] at h
  | false =>
    cases hc : p.sync_clr with
    | true => simp [decodeCw_clear hr hc] at h
    | false =>
      cases v with
      | pending => exact ⟨rfl, rfl, rfl⟩
      | _ => simp [decodeCw_resolution hr hc, resolution] at h

/-- Settles O30: row by row of R57. -/
theorem operationSelectionFollowsPriority : Obligations.OperationSelectionFollowsPriority := by
  refine ⟨fun h p => ⟨fun hready => ?_, fun hsel => inReady_iff.2 (running_of_idle_or_push hsel)⟩,
    fun v p => ⟨(decodeCw_eq_reset_iff v p).2, fun hr hc => decodeCw_clear hr hc v, fun hr hc => ?_⟩⟩
  · obtain ⟨hv, hr, hc⟩ := inReady_iff.1 hready
    rw [hv]
    cases hb : p.in_valid with
    | true => exact .inr ⟨_, decodeCw_push hr hc hb⟩
    | false => exact .inl (decodeCw_resolution hr hc fun _ => hb)
  · have resolved : ∀ u, u ≠ .pending → v = u → decodeCw v p.cw = resolution u :=
      fun u hu h => h ▸ decodeCw_resolution hr hc fun hv => absurd (h.symm.trans hv) hu
    exact ⟨resolved .valid nofun, resolved .rejHdr nofun, resolved .rejFunc nofun,
      resolved .rejStart nofun, resolved .rejCount nofun, resolved .rejCsum nofun,
      fun h hb => h ▸ decodeCw_push hr hc hb,
      fun h hb => h ▸ decodeCw_resolution hr hc fun _ => hb⟩

/-! ## The step by what is driven -/

theorem fetch_cons {s : State} {d : Drive} {ds : List Drive} (h : s.env.drive = d :: ds) :
    fetch s = (d, s.setDrive ds) := by
  simp [fetch, h]

/-- A step runs the instruction that what is driven selects. -/
theorem step_of_selected {s : State} {d : Drive} {ds : List Drive} {i : Instr}
    (h : s.env.drive = d :: ds) (hi : selected d s.hw.W = .ok i) :
    step s = exec i (s.setDrive ds) := by
  rw [step, fetch_cons h, setDrive_hw, hi]

/-- A step takes what selects no instruction as a stream. -/
theorem step_of_stray {s : State} {d : Drive} {ds : List Drive} {e : DecodeError}
    (h : s.env.drive = d :: ds) (he : selected d s.hw.W = .error e) :
    step s = .next (strayBytes d (s.setDrive ds)) := by
  rw [step, fetch_cons h, setDrive_hw, he]

/-- With an empty schedule a step is a cycle with free pins (log 2). -/
theorem step_of_nil {s : State} (h : s.env.drive = []) :
    step s = exec (decodeCw (classify s.hw.W) (freePins s.env.tick).cw)
      { s with env := { s.env with tick := s.env.tick + 1 } } := by
  simp [step, fetch, h, selected]

/-- Settles O35: by the kind of drive. -/
theorem stepRunsSelectedOperation : Obligations.StepRunsSelectedOperation := by
  refine ⟨fun s p ds h => step_of_selected h rfl, fun s k ds h => step_of_selected h rfl,
    fun s i ds hwf h hport => step_of_selected h ?_, fun s bytes ds h hframe => ?_,
    fun s => step_of_nil⟩
  · have hdecode := decodeOfEncodeIsIdentity i hwf
    rwa [hport] at hdecode
  · cases hw : decodeWire bytes with
    | error e => exact step_of_stray h hw
    | ok i =>
      have := (decodeWire_eq_ok_iff.1 hw).1
      rw [hframe] at this
      exact absurd this nofun

/-- A clock cycle that is no PUSH only removes bytes at the front of the window. -/
theorem ControlStep.window_drop {s t : State} {i : Instr} (h : ControlStep s i t)
    (hpush : ∀ b, i ≠ .push b) : ∃ n, t.hw.W = s.hw.W.drop n := by
  cases h with
  | push b => exact absurd rfl (hpush b)
  | idle => exact ⟨0, rfl⟩
  | reset | clear => exact ⟨s.hw.W.length, (List.drop_length).symm⟩
  | accept | rejHdr | rejFunc | rejStart | rejCount | rejCsum => exact ⟨_, rfl⟩

/-- Settles O39: the cycle is PUSH exactly on the handshake. -/
theorem transferExactlyOnHandshake : Obligations.TransferExactlyOnHandshake := by
  intro s p ds h
  obtain ⟨t, ht, hctl⟩ := step_cycle h
  refine ⟨t, ht, fun hb hready => ?_, fun hno => hctl.window_drop fun b hpush => ?_⟩
  · obtain ⟨hv, hr, hc⟩ := inReady_iff.1 hready
    rw [hv, decodeCw_push hr hc hb] at hctl
    cases hctl
    rfl
  · obtain ⟨hv, hr, hc⟩ := running_of_idle_or_push (.inr ⟨b, hpush⟩)
    obtain hb | hready := hno
    · rw [decodeCw_resolution hr hc fun _ => hb, hv] at hpush
      exact absurd hpush nofun
    · exact absurd (hready.symm.trans (inReady_iff.2 ⟨hv, hr, hc⟩)) Bool.false_ne_true

end Sys2Proof.Machine
end

section
/-! The clock cycles that the statements FEED and FRAME stand for (R70, R71). -/

namespace Sys2Proof.Machine

/-- A driven cycle, as `clock` runs it. -/
theorem clock_of_exec {p : Pins} {s t : State}
    (h : exec (decodeCw (classify s.hw.W) p.cw) s = .next t) : clock p s = t := by
  have hstep : step (s.setDrive (.cycle p :: s.env.drive)) = .next t :=
    (step_of_selected rfl rfl).trans h
  rw [clock, hstep]

/-- The RESOLVE variant of a verdict, executed, is RESOLVE (R58). -/
theorem exec_resolution {s : State} (h : classify s.hw.W ≠ .pending) :
    exec (resolution (classify s.hw.W)) s = .next (resolve s) := by
  unfold resolve
  cases v : classify s.hw.W with
  | pending => exact absurd v h
  | valid | rejHdr | rejFunc | rejStart | rejCount | rejCsum => rfl

/-- Clock cycles without controls that lead from `s` to `t` and transfer the bytes `bytes`, in order. -/
def Delivers (s : State) (bytes : List Byte) (t : State) : Prop :=
  ∃ ps : List Pins, (∀ p ∈ ps, p.rst = false ∧ p.sync_clr = false) ∧
    taken ps s = bytes ∧ clockRun ps s = t

theorem Delivers.refl (s : State) : Delivers s [] s := ⟨[], nofun, rfl, rfl⟩

theorem taken_append (ps qs : List Pins) (s : State) :
    taken (ps ++ qs) s = taken ps s ++ taken qs (clockRun ps s) := by
  induction ps generalizing s with
  | nil => rfl
  | cons p rest ih => simp only [List.cons_append, taken, clockRun, ih, List.append_assoc]

theorem clockRun_append (ps qs : List Pins) (s : State) :
    clockRun (ps ++ qs) s = clockRun qs (clockRun ps s) := by
  induction ps generalizing s with
  | nil => rfl
  | cons p rest ih => exact ih _

theorem Delivers.trans {s t u : State} {bs cs : List Byte} (h : Delivers s bs t)
    (k : Delivers t cs u) : Delivers s (bs ++ cs) u := by
  obtain ⟨ps, hps, rfl, rfl⟩ := h
  obtain ⟨qs, hqs, rfl, rfl⟩ := k
  refine ⟨ps ++ qs, fun p hp => ?_, taken_append ps qs s, clockRun_append ps qs s⟩
  exact (List.mem_append.1 hp).elim (hps p) (hqs p)

/-- One cycle without controls. -/
theorem delivers_clock {p : Pins} (hr : p.rst = false) (hc : p.sync_clr = false) (s : State) :
    Delivers s (takenNow p s) (clock p s) :=
  ⟨[p], by simp [hr, hc], List.append_nil _, rfl⟩

/-- Pins on which the producer offers the byte `b` and no control is active. -/
def offer (b : Byte) : Pins where
  rst := false
  sync_clr := false
  in_valid := true
  in_byte := b
  sel := 0#5
  link_down_i := false

/-- A RESOLVE step is one cycle, in which no byte is transferred. -/
theorem delivers_resolve {s : State} (h : classify s.hw.W ≠ .pending) :
    Delivers s [] (resolve s) := by
  have hclock : clock (offer 0#8) s = resolve s := clock_of_exec <| by
    rw [decodeCw_resolution rfl rfl fun v => absurd v h, exec_resolution h]
  have htaken : takenNow (offer 0#8) s = [] := by
    simp [takenNow, inReady, h]
  have := delivers_clock (p := offer 0#8) rfl rfl s
  rwa [hclock, htaken] at this

/-- A PUSH on a pending candidate is one cycle, in which its byte is transferred. -/
theorem delivers_appendByte {s : State} (b : Byte) (h : classify s.hw.W = .pending) :
    Delivers s [b] (appendByte b s) := by
  have hclock : clock (offer b) s = appendByte b s := clock_of_exec <| by
    rw [h, decodeCw_push rfl rfl rfl]
    rfl
  have htaken : takenNow (offer b) s = [b] :=
    if_pos (Bool.and_eq_true_iff.2 ⟨inReady_iff.2 ⟨h, rfl, rfl⟩, rfl⟩)
  have := delivers_clock (p := offer b) rfl rfl s
  rwa [hclock, htaken] at this

/-- DRAIN is made of cycles in which no byte is transferred. -/
theorem delivers_drain (s : State) : Delivers s [] (drain s) :=
  resolveAll_induction (P := Delivers s []) (fun _ hv h => h.trans (delivers_resolve hv)) _ s
    (.refl s)

/-- FEED is made of cycles in which its bytes are transferred, in order (R71). -/
theorem delivers_feed (bytes : List Byte) (s : State) : Delivers s bytes (feed bytes s) := by
  induction bytes generalizing s with
  | nil => exact delivers_drain s
  | cons b rest ih =>
    exact ((delivers_drain s).trans (delivers_appendByte b (drain_pending s))).trans (ih _)

/-- Settles O24: FRAME is FEED of the frame's bytes, and FEED is made of clock cycles. -/
theorem frameStepRefinesItsCycles : Obligations.FrameStepRefinesItsCycles := by
  intro start pay s
  obtain ⟨ps, hps, htaken, hrun⟩ := delivers_feed (frameBytes start pay) s
  exact ⟨ps, hps, htaken, congrArg _ hrun.symm⟩

/-- Settles O21: FRAME ends with DRAIN, and the delivery of bytes writes nothing outside the hardware. -/
theorem frameCompletesAndDrains : Obligations.FrameCompletesAndDrains := fun start pay s =>
  ⟨feed (frameBytes start pay) s, rfl, drain_pending _, feed_outside (frameBytes start pay) s⟩

end Sys2Proof.Machine
end

section
/-! A well-formed frame that finds the window empty (R51, R84, R88). -/

namespace Sys2Proof.Machine

theorem resolveAll_of_pending {s : State} (h : classify s.hw.W = .pending) (n : Nat) :
    resolveAll n s = s := by
  cases n with
  | zero => rfl
  | succ n => exact if_pos h

theorem drain_of_pending {s : State} (h : classify s.hw.W = .pending) : drain s = s :=
  resolveAll_of_pending h _

/-- Bytes that leave the candidate pending until the last one is taken are appended to the window. -/
theorem foldl_holdPush_of_pending (b : Byte) (rest : List Byte) (s : State)
    (h : ∀ P X, X ≠ [] → P ++ X = s.hw.W ++ b :: rest → classify P = .pending) :
    (b :: rest).foldl (fun t c => holdPush c t) s =
      s.setHw { s.hw with W := s.hw.W ++ b :: rest, evt := evtNone } := by
  have hpush : holdPush b s = appendByte b s := by
    rw [holdPush, drain_of_pending (h s.hw.W (b :: rest) nofun rfl)]
  rw [List.foldl_cons, hpush]
  cases rest with
  | nil => rfl
  | cons c rest =>
    have hW : (appendByte b s).hw.W ++ c :: rest = s.hw.W ++ b :: c :: rest :=
      List.append_assoc s.hw.W [b] (c :: rest)
    rw [foldl_holdPush_of_pending c rest (appendByte b s) (by rwa [hW]), hW]
    rfl

/-- A window that holds a VALID candidate and nothing more is drained by its ACCEPT. -/
theorem drain_of_valid {s : State} (v : classify s.hw.W = .valid)
    (hlen : s.hw.W.length = frameLen s.hw.W) :
    drain s = acceptFrame s := by
  have hresolve : resolve s = acceptFrame s := by
    rw [resolve, v]
  have hempty : classify (acceptFrame s).hw.W = .pending := by
    rw [acceptFrame_hw, ← hlen, List.drop_length, classify_nil]
  have hne : classify s.hw.W ≠ .pending := v ▸ nofun
  obtain ⟨n, hn⟩ : ∃ n, s.hw.W.length = n + 1 :=
    Nat.exists_eq_succ_of_ne_zero (length_pos_of_not_pending hne).ne'
  rw [drain, hn, resolveAll, if_neg hne, hresolve, resolveAll_of_pending hempty]

/-- While fewer bytes of a frame stand in the window than the frame has, the candidate is pending. -/
theorem pending_of_append_eq_frameBytes {start : Byte} {pay P X : List Byte}
    (h : (Instr.frame start pay).wellFormed = true) (hX : X ≠ [])
    (hP : P ++ X = frameBytes start pay) : classify P = .pending := by
  by_contra hne
  obtain ⟨v, hlen⟩ := isFrame_iff_valid.1 (isFrame_frameBytes h)
  rw [← hP] at v hlen
  obtain ⟨-, -, -, full, -⟩ := of_classify_valid ((classify_append X hne).symm.trans v)
  have hfive := five_le_frameLen P
  rw [frameLen_append X (by omega), List.length_append] at hlen
  have := List.length_pos_iff.2 hX
  omega

/-- The last byte of a frame is its checksum (R51). -/
theorem frameBytes_last (start : Byte) (pay : List Byte) :
    byteAt (frameBytes start pay) (pay.length + 4) = sum8 (frameBody start pay) := by
  rw [byteAt, frameBytes, ← frameBody_length start pay, List.getD_append_right _ _ _ _ le_rfl,
    Nat.sub_self]
  rfl

/-- The payload bytes of a frame begin at offset 4 (R51). -/
theorem frameBytes_pay_byte (start : Byte) {pay : List Byte} {k : Nat} (h : k < pay.length) :
    byteAt (frameBytes start pay) (4 + k) = pay.getD k 0#8 := by
  rw [Nat.add_comm]
  exact List.getD_append pay _ _ _ h

/-- The frame register as the ACCEPT of a frame loads it (R84, R99). -/
theorem loadFrame_frameBytes (start : Byte) {pay : List Byte} (h : pay.length < 256) :
    loadFrame (frameBytes start pay) = {
      start := start
      count := BitVec.ofNat 8 pay.length
      csum := sum8 (frameBody start pay)
      pay := Vector.ofFn fun k : Fin 18 => pay.getD k.val 0x00#8 } := by
  have hcount : (byteAt (frameBytes start pay) 3).toNat = pay.length := frameBytes_count start h
  rw [loadFrame, FrameReg.mk.injEq]
  refine ⟨rfl, rfl, ?_, ?_⟩
  · rw [frameLen_eq, hcount]
    exact frameBytes_last start pay
  · refine congrArg Vector.ofFn (funext fun k => ?_)
    dsimp only [Config.OFF_COUNT_eq, Config.OFF_PAY_eq]
    rw [hcount]
    split
    · next hk => exact frameBytes_pay_byte start hk
    · next hk => exact (List.getD_eq_default _ _ (not_lt.1 hk)).symm

/-- FEED of a well-formed frame into an empty window is the ACCEPT of the window that holds it. -/
theorem feed_frameBytes {start : Byte} {pay : List Byte} {s : State}
    (h : (Instr.frame start pay).wellFormed = true) (hW : s.hw.W = []) :
    feed (frameBytes start pay) s =
      acceptFrame (s.setHw { s.hw with W := frameBytes start pay, evt := evtNone }) := by
  obtain ⟨v, hlen⟩ := isFrame_iff_valid.1 (isFrame_frameBytes h)
  have hfold : (frameBytes start pay).foldl (fun t c => holdPush c t) s =
      s.setHw { s.hw with W := s.hw.W ++ frameBytes start pay, evt := evtNone } :=
    foldl_holdPush_of_pending _ _ s fun P X hX hP =>
      pending_of_append_eq_frameBytes h hX (hP.trans (by rw [hW]; rfl))
  rw [feed, hfold, hW, List.nil_append]
  exact drain_of_valid v hlen

/-- Settles O22: the frame is accepted when its last byte has come, and its bytes are dropped. -/
theorem frameOnEmptyWindowIsAccepted : Obligations.FrameOnEmptyWindowIsAccepted := by
  intro start pay s _ hrange hW
  have hwf : (Instr.frame start pay).wellFormed = true := wellFormed_frame_iff.2 hrange
  have hpay : pay.length < 256 := by omega
  have hcount : (byteAt (frameBytes start pay) 3).toNat = pay.length := frameBytes_count start hpay
  have hlen : frameLen (frameBytes start pay) = pay.length + 5 := by rw [frameLen_eq, hcount]
  have hempty : (frameBytes start pay).drop (pay.length + 5) = [] :=
    List.drop_eq_nil_of_le (frameBytes_length start pay).le
  have hexec : exec (.frame start pay) s = .next (feed (frameBytes start pay) s) := rfl
  rw [hexec, feed_frameBytes hwf hW, acceptFrame]
  simp only [setHw_hw, setHw_pos, hlen, hempty, loadFrame_frameBytes start hpay, shortFlag,
    Config.OFF_COUNT_eq, hcount]
  rfl

end Sys2Proof.Machine
end

section
/-! When the classification gives each verdict, and which bytes it looks at (R73 to R76). -/

namespace Sys2Proof.Machine

/-- The sum of bytes, compared as a number (R11, R75). -/
theorem sum8_eq_iff {S : List Byte} {b : Byte} :
    sum8 S = b ↔ (S.map BitVec.toNat).sum % 256 = b.toNat := by
  rw [← BitVec.toNat_inj, sum8, BitVec.toNat_ofNat]

/-- Settles O31: with its comparisons read as numbers, the chain of checks reaches each verdict on the
branches named. -/
theorem verdictConditions : Obligations.VerdictConditions := by
  intro W
  have hget : ∀ i, W.getD i 0#8 = byteAt W i := fun _ => rfl
  have hdr : byteAt W 0 = Config.HDR ↔ (byteAt W 0).toNat = 0xA4 := BitVec.toNat_inj.symm
  have func : byteAt W 1 = Config.FUNC ↔ (byteAt W 1).toNat = 0x03 := BitVec.toNat_inj.symm
  have hbody : (byteAt W 3).toNat + 5 - 1 = (byteAt W 3).toNat + 4 := rfl
  simp only [classify, Config.OFF_HDR_eq, Config.OFF_FUNC_eq, Config.OFF_START_eq,
    Config.OFF_COUNT_eq, Config.REG_LIMIT_eq, Ne, hget, hdr, func, frameLen_eq, hbody, sum8_eq_iff]
  refine ⟨?_, ?_, ?_, ?_, ?_, ?_, ?_⟩
  all_goals
    simp only [ite_eq_iff, reduceCtorEq, and_false, and_true, or_false, false_or]
    grind

/-- A pending window is shorter than its candidate. -/
theorem length_lt_frameLen_of_pending {W : List Byte} (h : classify W = .pending) :
    W.length < frameLen W := by
  obtain ⟨-, -, -, -, -, -, hpending⟩ := verdictConditions W
  have hcases := hpending.1 h
  dsimp only at hcases
  have hlen : frameLen W = (W.getD 3 0#8).toNat + 5 := rfl
  omega

theorem frameLen_take (W : List Byte) : frameLen (W.take (frameLen W)) = frameLen W := by
  have hcount : 3 < frameLen W := (by decide : 3 < 5).trans_le (five_le_frameLen W)
  rw [frameLen_eq (W.take _), byteAt, List.getD, List.getElem?_take_of_lt hcount]
  rfl

/-- A window that holds its whole candidate has the verdict of the candidate (R76). -/
theorem classify_take_frameLen {W : List Byte} (h : frameLen W ≤ W.length) :
    classify (W.take (frameLen W)) = classify W := by
  have hfull : classify (W.take (frameLen W)) ≠ .pending := fun hp =>
    (length_lt_frameLen_of_pending hp).ne (by rw [frameLen_take, List.length_take_of_le h])
  rw [← classify_append (W.drop (frameLen W)) hfull, List.take_append_drop]

/-- Settles O32: a verdict stands whatever follows, and a window without its whole candidate is its own
first part. -/
theorem verdictIsStable : Obligations.VerdictIsStable := by
  refine ⟨fun W X h => classify_append X h, fun W _ => ?_⟩
  have hlen : (W.getD 3 0#8).toNat + 5 = frameLen W := rfl
  rw [hlen]
  obtain hall | hpart := le_total (frameLen W) W.length
  · rw [min_eq_right hall, classify_take_frameLen hall]
  · rw [min_eq_left hpart, List.take_length]

/-- Settles O33: the longest pending window lacks only the checksum of the longest frame. -/
theorem pendingWindowHasRoom : Obligations.PendingWindowHasRoom := fun _ => length_le_of_pending

/-- A candidate that passes every check but the checksum is rejected for it (R75). -/
theorem classify_of_wrong_checksum {start k : Byte} {pay : List Byte} (rest : List Byte)
    (h : (Instr.frame start pay).wellFormed = true) (hk : sum8 (frameBody start pay) ≠ k) :
    classify (frameBody start pay ++ k :: rest) = .rejCsum := by
  have range := wellFormed_frame_iff.1 h
  have hbody := frameBody_length start pay
  obtain ⟨-, -, -, -, hcsum, -, -⟩ := verdictConditions (frameBody start pay ++ k :: rest)
  have hstart : (frameBody start pay ++ k :: rest).getD 2 0#8 = start := rfl
  have hcount : ((frameBody start pay ++ k :: rest).getD 3 0#8).toNat = pay.length := by
    refine (BitVec.toNat_ofNat _ _).trans (Nat.mod_eq_of_lt ?_)
    omega
  have hlast : (frameBody start pay ++ k :: rest).getD (pay.length + 4) 0#8 = k := by
    rw [← hbody, List.getD_append_right _ _ _ _ le_rfl, Nat.sub_self]
    rfl
  have hlen : (frameBody start pay ++ k :: rest).length = pay.length + 5 + rest.length := by
    rw [List.length_append, hbody, List.length_cons]
    omega
  refine hcsum.2 ?_
  dsimp only
  rw [hcount, hstart, hlast, hlen, ← hbody, List.take_left, ← sum8_eq_iff]
  refine ⟨⟨⟨⟨⟨⟨?_, rfl⟩, ?_, rfl⟩, ?_, ?_⟩, ?_, range⟩, ?_⟩, hk⟩ <;> omega

end Sys2Proof.Machine
end

section
/-! The operations of the synchronizer, each where its verdict selects it (R77 to R86). -/

namespace Sys2Proof.Machine

/-- No byte is taken in a cycle with `sync_clr` (R29). -/
theorem inReady_of_clr (h : Hw) {p : Pins} (hc : p.sync_clr = true) : inReady h p = false := by
  simp [inReady, hc]

/-- Settles O3: `sync_clr` selects CLEAR, which is `emptyWindow`. -/
theorem clearCompletes : Obligations.ClearCompletes :=
  ⟨fun s _ hr hc => ⟨decodeCw_clear hr hc _, inReady_of_clr s.hw hc⟩, fun _ => rfl⟩

/-- Settles O4: IDLE is `writeEvent`. -/
theorem idleCompletes : Obligations.IdleCompletes := fun _ _ => rfl

/-- Settles O7: PUSH is `appendByte`, and a pending window has room. -/
theorem pushCompletes : Obligations.PushCompletes := fun _ _ h => ⟨length_le_of_pending h, rfl⟩

/-- Settles O8: the four are `rejectStructural` with their event codes. -/
theorem structuralRejectsComplete : Obligations.StructuralRejectsComplete := fun _ =>
  ⟨fun _ => rfl, fun _ => rfl, fun _ => rfl, fun _ => rfl⟩

/-- Settles O9: REJ_CSUM is `rejectChecksum`. -/
theorem checksumRejectCompletes : Obligations.ChecksumRejectCompletes := fun _ _ => rfl

/-- Settles O10: ACCEPT is `acceptFrame`, whose checksum offset `c + 5 - 1` is `c + 4`. -/
theorem acceptCompletes : Obligations.AcceptCompletes := fun _ _ => rfl

end Sys2Proof.Machine
end

section
/-! What a clock cycle does by its pins and the verdict, and how many cycles a resolution takes (R78, R87,
R91, R92). -/

namespace Sys2Proof.Machine

/-! ## One cycle -/

/-- A cycle with `rst` is RESET. -/
theorem clock_of_rst {p : Pins} (hr : p.rst = true) (s : State) : clock p s = resetAll s :=
  clock_of_exec (by rw [(decodeCw_eq_reset_iff _ p).2 hr]; rfl)

/-- A cycle with `sync_clr` alone is CLEAR. -/
theorem clock_of_clr {p : Pins} (hr : p.rst = false) (hc : p.sync_clr = true) (s : State) :
    clock p s = emptyWindow s :=
  clock_of_exec (by rw [decodeCw_clear hr hc]; rfl)

section Running

variable {p : Pins} {s : State} (hr : p.rst = false) (hc : p.sync_clr = false)

include hr hc

/-- Without controls a candidate with a verdict is resolved. -/
theorem exec_resolve (h : classify s.hw.W ≠ .pending) :
    exec (decodeCw (classify s.hw.W) p.cw) s = .next (resolve s) := by
  rw [decodeCw_resolution hr hc fun v => absurd v h, exec_resolution h]

theorem clock_of_not_pending (h : classify s.hw.W ≠ .pending) : clock p s = resolve s :=
  clock_of_exec (exec_resolve hr hc h)

/-- Without controls a pending candidate takes the byte offered. -/
theorem clock_of_pending_valid (h : classify s.hw.W = .pending) (hb : p.in_valid = true) :
    clock p s = appendByte p.in_byte s :=
  clock_of_exec (by rw [h, decodeCw_push hr hc hb]; rfl)

/-- Without controls a pending candidate waits where no byte is offered. -/
theorem clock_of_pending_invalid (h : classify s.hw.W = .pending) (hb : p.in_valid = false) :
    clock p s = writeEvent evtNone s :=
  clock_of_exec (by rw [decodeCw_resolution hr hc fun _ => hb, h]; rfl)

/-- A driven cycle without controls resolves a candidate that has a verdict. -/
theorem step_of_not_pending {ds : List Drive} (h : classify s.hw.W ≠ .pending)
    (hd : s.env.drive = .cycle p :: ds) : step s = .next (resolve (s.setDrive ds)) :=
  (step_of_selected hd rfl).trans (exec_resolve (s := s.setDrive ds) hr hc h)

/-- Without controls the byte offered is transferred exactly if the candidate is pending (R59). -/
theorem takenNow_of_running : takenNow p s =
    if classify s.hw.W = .pending ∧ p.in_valid = true then [p.in_byte] else [] := by
  simp [takenNow, inReady, hr, hc]

end Running

theorem resolve_of_valid {s : State} (h : classify s.hw.W = .valid) : resolve s = acceptFrame s := by
  rw [resolve, h]

theorem resolve_of_rejCsum {s : State} (h : classify s.hw.W = .rejCsum) :
    resolve s = rejectChecksum evtRejCsum s := by
  rw [resolve, h]

/-- Every reject drops one byte (R78). -/
theorem resolve_of_reject {s : State} (hp : classify s.hw.W ≠ .pending)
    (hv : classify s.hw.W ≠ .valid) :
    (resolve s).hw.W = s.hw.W.drop 1 ∧ (resolve s).pos = s.pos + 1 := by
  obtain ⟨v, -⟩ | ⟨v, -⟩ | ⟨-, e⟩ | ⟨c, -, -, e⟩ := resolve_cases s
  · exact absurd v hp
  · exact absurd v hv
  · exact e ▸ ⟨rfl, rfl⟩
  · exact e ▸ ⟨rfl, rfl⟩

/-- Settles O38: the cycle is RESOLVE, and the window holds a byte. -/
theorem rejectRemovesExactlyOneByte : Obligations.RejectRemovesExactlyOneByte := by
  intro s p ds hd hr hc hp hv
  obtain ⟨hW, hpos⟩ := resolve_of_reject (s := s.setDrive ds) hp hv
  obtain ⟨b, rest, hcons⟩ := List.exists_cons_of_length_pos (length_pos_of_not_pending hp)
  refine ⟨b, _, step_of_not_pending hr hc hp hd, ?_, hpos⟩
  rw [hW, setDrive_hw, hcons, List.drop_one, List.tail_cons]

/-- Settles O44: the candidate has the verdict REJ_CSUM, and the cycle is RESOLVE. -/
theorem checksumOffByOneIsRejected : Obligations.ChecksumOffByOneIsRejected := by
  intro start k pay rest s p ds hwf hk hW hd hr hc
  have hne : sum8 (frameBody start pay) ≠ k := by
    generalize sum8 (frameBody start pay) = x at hk
    bv_omega
  have v : classify s.hw.W = .rejCsum := hW ▸ classify_of_wrong_checksum rest hwf hne
  have hstep := step_of_not_pending hr hc (v ▸ nofun) hd
  rw [resolve_of_rejCsum (s := s.setDrive ds) v] at hstep
  exact ⟨_, hstep, rfl, rfl, rfl, rfl, rfl⟩

/-! ## Runs of cycles -/

/-- Settles O50: while a candidate has a verdict, a cycle resolves it and the window gets shorter. -/
theorem resolutionChainEndsWithinWindow : Obligations.ResolutionChainEndsWithinWindow := by
  intro s ps
  induction ps generalizing s with
  | nil =>
    intro _ hlen
    exact ⟨0, Nat.zero_le _, congrArg classify (List.length_eq_zero_iff.1 (Nat.le_zero.1 hlen)), rfl⟩
  | cons p rest ih =>
    intro hps hlen
    by_cases hv : classify s.hw.W = .pending
    · exact ⟨0, Nat.zero_le _, hv, rfl⟩
    obtain ⟨⟨hr, hc⟩, hrest⟩ := List.forall_mem_cons.1 hps
    have hclock : clock p s = resolve s := clock_of_not_pending hr hc hv
    have hshorter := resolve_length_lt hv
    obtain ⟨k, hk, hend, hsteps⟩ :=
      ih (clock p s) hrest (by rw [hclock]; exact Nat.le_of_lt_succ (hshorter.trans_le hlen))
    refine ⟨k + 1, ?_, hend, ?_⟩
    · rw [hclock] at hk
      omega
    · simp [List.take_succ_cons, resolveSteps, hsteps, running, hr, hc, hv, Nat.add_comm]

/-- In one cycle the window gains the byte transferred, and loses a byte if it is a RESOLVE step. -/
theorem resolve_add_length_clock_le (p : Pins) (s : State) :
    (if running p && decide (classify s.hw.W ≠ .pending) then 1 else 0) + (clock p s).hw.W.length ≤
      s.hw.W.length + (takenNow p s).length := by
  cases hr : p.rst with
  | true => simp [clock_of_rst hr, running, hr]
  | false =>
    cases hc : p.sync_clr with
    | true => simp [clock_of_clr hr hc, running, hc]
    | false =>
      rw [takenNow_of_running hr hc]
      by_cases hv : classify s.hw.W = .pending
      · cases hb : p.in_valid with
        | true => simp [clock_of_pending_valid hr hc hv hb, hv]
        | false => simp [clock_of_pending_invalid hr hc hv hb, hv]
      · have := resolve_length_lt hv
        rw [clock_of_not_pending hr hc hv]
        split <;> omega

/-- Settles O51: cycle by cycle, a RESOLVE step is paid for by a byte of the window. -/
theorem resolvesNeverOutnumberBytes : Obligations.ResolvesNeverOutnumberBytes := by
  intro ps
  induction ps with
  | nil => exact fun s => Nat.zero_le _
  | cons p rest ih =>
    intro s
    have hcycle := resolve_add_length_clock_le p s
    have hrest := ih (clock p s)
    rw [resolveSteps, taken, List.length_append]
    omega

end Sys2Proof.Machine
end

section
/-! Bytes without a header marker, delivered to an empty window (R55, R71, R79, R91). -/

namespace Sys2Proof.Machine

/-- A step with bytes on the wire is their FEED, be they a frame or not. -/
theorem step_wire {s : State} {bytes : List Byte} {ds : List Drive}
    (hd : s.env.drive = .wire bytes :: ds) : step s = .next (feed bytes (s.setDrive ds)) := by
  cases hw : decodeWire bytes with
  | error e => exact step_of_stray hd hw
  | ok i =>
    obtain ⟨hframe, rfl⟩ := decodeWire_eq_ok_iff.1 hw
    refine (step_of_selected hd hw).trans ?_
    rw [exec, execFrame, frameBytes_of_isFrame hframe]

/-- FEED drains before its first byte, so it may as well start from the drained state. -/
theorem feed_drain (bytes : List Byte) (s : State) : feed bytes (drain s) = feed bytes s := by
  have hdrain : drain (drain s) = drain s := drain_of_pending (drain_pending s)
  cases bytes with
  | nil => exact hdrain
  | cons b rest => simp only [feed, List.foldl_cons, holdPush, hdrain]

/-- FEED byte by byte, the chain that each byte starts run to its end. -/
theorem feed_cons (b : Byte) (rest : List Byte) (s : State) :
    feed (b :: rest) s = feed rest (drain (holdPush b s)) := by
  rw [feed_drain, feed, feed, List.foldl_cons]

/-- A byte that is no header marker is rejected at once (R73, R79). -/
theorem classify_of_no_header {b : Byte} (h : b ≠ Config.HDR) (rest : List Byte) :
    classify (b :: rest) = .rejHdr := by
  simp [classify, h]

/-- A byte that is no header marker, taken into an empty window, is dropped from it and counted. -/
theorem drain_holdPush_of_no_header {b : Byte} {s : State} (hb : b ≠ Config.HDR) (hW : s.hw.W = []) :
    drain (holdPush b s) = rejectStructural evtRejHdr (appendByte b s) := by
  have hpush : holdPush b s = appendByte b s := by
    rw [holdPush, drain_of_pending (congrArg classify hW)]
  have hone : (appendByte b s).hw.W = [b] := by rw [appendByte_hw, hW, List.nil_append]
  have v : classify (appendByte b s).hw.W = .rejHdr := hone ▸ classify_of_no_header hb []
  have hresolve : resolve (appendByte b s) = rejectStructural evtRejHdr (appendByte b s) := by
    rw [resolve, v]
  have hempty : (rejectStructural evtRejHdr (appendByte b s)).hw.W = [] := by
    rw [rejectStructural_hw, hone]
    rfl
  rw [hpush, drain, hone, List.length_singleton, resolveAll, if_neg (v ▸ nofun), hresolve, resolveAll]

/-- FEED of bytes without a header marker into an empty window rejects them all and does nothing else. -/
theorem feed_of_no_header (G : List Byte) (s : State) (hG : ∀ b ∈ G, b ≠ Config.HDR)
    (hW : s.hw.W = []) (hcnt : s.hw.cnt_struct < 2 ^ s.cfg.cntW) :
    (feed G s).hw.W = [] ∧ (feed G s).hw.FR = s.hw.FR ∧
      (feed G s).hw.cnt_accept = s.hw.cnt_accept ∧ (feed G s).hw.cnt_csum = s.hw.cnt_csum ∧
      (feed G s).hw.cnt_struct = (s.hw.cnt_struct + G.length) % 2 ^ s.cfg.cntW ∧
      (feed G s).pos = s.pos + G.length := by
  induction G generalizing s with
  | nil =>
    have hfeed : feed [] s = s := drain_of_pending (congrArg classify hW)
    rw [hfeed]
    exact ⟨hW, rfl, rfl, rfl, (Nat.mod_eq_of_lt hcnt).symm, rfl⟩
  | cons b rest ih =>
    obtain ⟨hb, hrest⟩ := List.forall_mem_cons.1 hG
    rw [feed_cons, drain_holdPush_of_no_header hb hW]
    obtain ⟨hW', hFR, haccept, hcsum, hstruct, hpos⟩ :=
      ih (rejectStructural evtRejHdr (appendByte b s)) hrest (by simp [hW]) (countUp_lt _ _)
    refine ⟨hW', hFR, haccept, hcsum, hstruct.trans ?_, hpos.trans ?_⟩
    · rw [List.length_cons, Nat.add_comm rest.length, ← Nat.add_assoc]
      exact Nat.mod_add_mod _ _ _
    · rw [List.length_cons, Nat.add_comm rest.length, ← Nat.add_assoc]
      rfl

/-- Settles O52: the step is FEED of the bytes. -/
theorem garbageIsRejectedWithoutHanging : Obligations.GarbageIsRejectedWithoutHanging :=
  fun s G ds hd hG hW hcnt => ⟨_, step_wire hd, feed_of_no_header G (s.setDrive ds) hG hW hcnt⟩

end Sys2Proof.Machine
end

section
/-! The parse of a stream, and the frames that clock cycles accept from it (R88, R90). -/

namespace Sys2Proof.Machine

/-! ## The rounds of the parse -/

theorem parseFrom_of_pending {S : List Byte} {p : Nat} (h : classify (S.drop p) = .pending) (n : Nat) :
    parseFrom n S p = ([], p) := by
  cases n with
  | zero => rfl
  | succ n => simp [parseFrom, h]

theorem parseFrom_of_valid {S : List Byte} {p : Nat} (h : classify (S.drop p) = .valid) (n : Nat) :
    parseFrom (n + 1) S p =
      ((p, (S.drop p).take (frameLen (S.drop p))) :: (parseFrom n S (p + frameLen (S.drop p))).1,
        (parseFrom n S (p + frameLen (S.drop p))).2) := by
  simp [parseFrom, h]

theorem parseFrom_of_reject {S : List Byte} {p : Nat} (hp : classify (S.drop p) ≠ .pending)
    (hv : classify (S.drop p) ≠ .valid) (n : Nat) :
    parseFrom (n + 1) S p = parseFrom n S (p + 1) := by
  cases v : classify (S.drop p) with
  | pending => exact absurd v hp
  | valid => exact absurd v hv
  | rejHdr | rejFunc | rejStart | rejCount | rejCsum => simp [parseFrom, v]

/-- A VALID candidate keeps its length and its bytes, whatever follows it. -/
theorem frameLen_append_of_valid {W : List Byte} (v : classify W = .valid) (X : List Byte) :
    frameLen (W ++ X) = frameLen W ∧ (W ++ X).take (frameLen W) = W.take (frameLen W) := by
  obtain ⟨-, -, -, full, -⟩ := of_classify_valid v
  have hfive := five_le_frameLen W
  exact ⟨frameLen_append X (by omega), List.take_append_of_le_length full⟩

/-- The parse of a longer stream, with as many rounds at least, begins with the frames of the shorter
one. -/
theorem parseFrom_append (S T : List Byte) (n : Nat) : ∀ m p, n ≤ m →
    ∃ rest, (parseFrom m (S ++ T) p).1 = (parseFrom n S p).1 ++ rest := by
  induction n with
  | zero => exact fun m p _ => ⟨_, rfl⟩
  | succ n ih =>
    intro m p hnm
    obtain ⟨m, rfl⟩ := Nat.exists_eq_add_one_of_ne_zero (Nat.ne_zero_of_lt hnm)
    have hnext := fun q => ih m q (Nat.le_of_succ_le_succ hnm)
    have hdrop : (S ++ T).drop p = S.drop p ++ T.drop (p - S.length) := List.drop_append
    by_cases hp : classify (S.drop p) = .pending
    · rw [parseFrom_of_pending hp]
      exact ⟨_, rfl⟩
    have hsame : classify ((S ++ T).drop p) = classify (S.drop p) := hdrop ▸ classify_append _ hp
    by_cases hv : classify (S.drop p) = .valid
    · obtain ⟨hlen, htake⟩ := frameLen_append_of_valid hv (T.drop (p - S.length))
      rw [parseFrom_of_valid hv, parseFrom_of_valid (hsame.trans hv), hdrop, hlen, htake]
      obtain ⟨rest, hrest⟩ := hnext (p + frameLen (S.drop p))
      exact ⟨rest, congrArg (List.cons _) hrest⟩
    · rw [parseFrom_of_reject hp hv, parseFrom_of_reject (hsame ▸ hp) (hsame ▸ hv)]
      exact hnext _

/-! ## Cycles without controls follow the parse -/

/-- A cycle on a pending candidate moves nothing but the byte transferred. -/
theorem clock_of_pending {p : Pins} {s : State} (hr : p.rst = false) (hc : p.sync_clr = false)
    (h : classify s.hw.W = .pending) :
    (clock p s).hw.W = s.hw.W ++ takenNow p s ∧ (clock p s).pos = s.pos ∧ acceptedNow p s = [] := by
  rw [takenNow_of_running hr hc, acceptedNow]
  cases hb : p.in_valid with
  | true =>
    rw [clock_of_pending_valid hr hc h hb, h, decodeCw_push hr hc hb]
    exact ⟨rfl, rfl, rfl⟩
  | false =>
    rw [clock_of_pending_invalid hr hc h hb, decodeCw_resolution hr hc fun _ => hb, h]
    exact ⟨(List.append_nil _).symm, rfl, rfl⟩

/-- A cycle on a VALID candidate accepts it. -/
theorem clock_of_valid {p : Pins} {s : State} (hr : p.rst = false) (hc : p.sync_clr = false)
    (h : classify s.hw.W = .valid) :
    (clock p s).hw.W = s.hw.W.drop (frameLen s.hw.W) ∧ (clock p s).pos = s.pos + frameLen s.hw.W ∧
      acceptedNow p s = [(s.pos, s.hw.W.take (frameLen s.hw.W))] ∧ takenNow p s = [] := by
  have hne : classify s.hw.W ≠ .pending := h ▸ nofun
  rw [takenNow_of_running hr hc, acceptedNow, clock_of_not_pending hr hc hne, resolve_of_valid h,
    decodeCw_resolution hr hc fun v => absurd v hne, h]
  exact ⟨rfl, rfl, rfl, rfl⟩

/-- A cycle on a candidate to be rejected drops one byte. -/
theorem clock_of_reject {p : Pins} {s : State} (hr : p.rst = false) (hc : p.sync_clr = false)
    (hp : classify s.hw.W ≠ .pending) (hv : classify s.hw.W ≠ .valid) :
    (clock p s).hw.W = s.hw.W.drop 1 ∧ (clock p s).pos = s.pos + 1 ∧
      acceptedNow p s = [] ∧ takenNow p s = [] := by
  obtain ⟨hW, hpos⟩ := resolve_of_reject hp hv
  have hno : decodeCw (classify s.hw.W) p.cw ≠ .accept := by
    rw [decodeCw_resolution hr hc fun v => absurd v hp]
    cases v : classify s.hw.W with
    | valid => exact absurd v hv
    | _ => nofun
  rw [takenNow_of_running hr hc, clock_of_not_pending hr hc hp]
  exact ⟨hW, hpos, if_neg hno, if_neg fun h => hp h.1⟩

/-- Dropping bytes at the front of the window and passing them in the stream keep the window in front of
what is left of the stream. -/
theorem drop_pos_of_drop {S T : List Byte} {s t : State} {k : Nat}
    (hS : S.drop s.pos = s.hw.W ++ T) (hk : k ≤ s.hw.W.length) (hW : t.hw.W = s.hw.W.drop k)
    (hpos : t.pos = s.pos + k) : S.drop t.pos = t.hw.W ++ T := by
  rw [hpos, hW, ← List.drop_drop, hS, List.drop_append_of_le_length hk]

/-- Cycles without controls from a state whose window begins what is left of the stream `S`, until the
candidate is pending: they accept the frames that the parse of `S` finds from there on, and end where it
ends. -/
theorem parseFrom_eq_accepted (S : List Byte) (ps : List Pins) : ∀ (s : State) (n : Nat),
    (∀ p ∈ ps, p.rst = false ∧ p.sync_clr = false) →
    S.drop s.pos = s.hw.W ++ taken ps s → S.length - s.pos < n →
    classify (clockRun ps s).hw.W = .pending →
    parseFrom n S s.pos = (accepted ps s, (clockRun ps s).pos) ∧
      S.drop (clockRun ps s).pos = (clockRun ps s).hw.W := by
  induction ps with
  | nil =>
    intro s n _ hS _ hend
    have hS : S.drop s.pos = s.hw.W := hS.trans (List.append_nil _)
    exact ⟨parseFrom_of_pending (hS ▸ hend) n, hS⟩
  | cons p rest ih =>
    intro s n hps hS hn hend
    obtain ⟨⟨hr, hc⟩, hrest⟩ := List.forall_mem_cons.1 hps
    rw [taken, ← List.append_assoc] at hS
    rw [accepted, clockRun]
    by_cases hp : classify s.hw.W = .pending
    · obtain ⟨hW, hpos, hacc⟩ := clock_of_pending hr hc hp
      rw [hacc, List.nil_append, ← hpos]
      rw [← hW, ← hpos] at hS
      exact ih _ n hrest hS (hpos ▸ hn) hend
    have hlen : s.hw.W.length ≤ S.length - s.pos := by
      rw [← List.length_drop, hS]
      simp
    have hpositive := length_pos_of_not_pending hp
    obtain ⟨n, rfl⟩ := Nat.exists_eq_add_one_of_ne_zero (Nat.ne_zero_of_lt hn)
    by_cases hv : classify s.hw.W = .valid
    · obtain ⟨hW, hpos, hacc, htaken⟩ := clock_of_valid hr hc hv
      obtain ⟨-, -, -, full, -⟩ := of_classify_valid hv
      have hfive := five_le_frameLen s.hw.W
      rw [htaken, List.append_nil] at hS
      have hsame : classify (S.drop s.pos) = .valid := hS ▸ (classify_append _ hp).trans hv
      obtain ⟨hL, htake⟩ := frameLen_append_of_valid hv (taken rest (clock p s))
      obtain ⟨hparse, hdrop⟩ :=
        ih _ n hrest (drop_pos_of_drop hS full hW hpos) (by omega) hend
      rw [parseFrom_of_valid hsame, hS, hL, htake, ← hpos, hparse, hacc]
      exact ⟨rfl, hdrop⟩
    · obtain ⟨hW, hpos, hacc, htaken⟩ := clock_of_reject hr hc hp hv
      rw [htaken, List.append_nil] at hS
      have hsame : classify (S.drop s.pos) = classify s.hw.W := hS ▸ classify_append _ hp
      rw [parseFrom_of_reject (hsame ▸ hp) (hsame ▸ hv), ← hpos, hacc]
      exact ih _ n hrest (drop_pos_of_drop hS hpositive hW hpos) (by omega) hend

/-- Settles O53: at the start the whole stream is still to come. -/
theorem acceptedFramesAreTheStreamParse : Obligations.AcceptedFramesAreTheStreamParse := by
  refine ⟨fun ps s hps hW hpos hend => ?_, fun S T => ?_⟩
  · have hS : (taken ps s).drop s.pos = s.hw.W ++ taken ps s := by rw [hpos, hW]; rfl
    obtain ⟨hparse, hdrop⟩ := parseFrom_eq_accepted _ ps s ((taken ps s).length + 1) hps hS
      (Nat.lt_succ_of_le (Nat.sub_le _ _)) hend
    rw [hpos] at hparse
    rw [parse, hparse]
    exact ⟨rfl, hdrop.symm, rfl⟩
  · have hrounds : S.length + 1 ≤ (S ++ T).length + 1 := by simp
    exact parseFrom_append S T _ _ 0 hrounds

/-- Where fewer than five bytes are left, no round of the parse finds a frame (R53). -/
theorem parseFrom_of_short {S : List Byte} (h : S.length < 5) (n : Nat) :
    ∀ p, (parseFrom n S p).1 = [] := by
  induction n with
  | zero => exact fun p => rfl
  | succ n ih =>
    intro p
    have hv : classify (S.drop p) ≠ .valid := fun v => by
      obtain ⟨-, -, -, full, -⟩ := of_classify_valid v
      have hfive := five_le_frameLen (S.drop p)
      rw [List.length_drop] at full
      omega
    by_cases hp : classify (S.drop p) = .pending
    · rw [parseFrom_of_pending hp]
    · rw [parseFrom_of_reject hp hv, ih]

/-- Settles O54: the parse is rounds from position 0. -/
theorem shortBufferHoldsNoFrame : Obligations.ShortBufferHoldsNoFrame :=
  fun _ h => parseFrom_of_short h _ 0

end Sys2Proof.Machine
end

section
/-! What the field outputs show: the multiplexer read off the frame register (R97 to R102, R123), and what
an ACCEPT and a FRAME put there (R84, R98, R99). -/

namespace Sys2Proof.Machine

/-! ## The multiplexer -/

/-- The outputs for a field depend on the payload alone (R98). -/
theorem mux_congr {F G : FrameReg} (h : F.pay = G.pay) (k : BitVec 5) : mux F k = mux G k := by
  by_cases hk : k.toNat < Config.NFIELDS
  · rw [mux_of_lt F hk, mux_of_lt G hk, offsetOut, offsetOut, h]
  · rw [mux_of_not_lt F hk, mux_of_not_lt G hk]

/-- Below the number of fields the raw output is the stored payload byte (R100). -/
theorem mux_raw (FR : FrameReg) {k : BitVec 5} (h : k.toNat < Config.NFIELDS) :
    (mux FR k).fld_raw = FR.pay[k.toNat] := by
  rw [mux_of_lt FR h]
  rfl

/-- Raw zero scales to `+0.0` (R103). -/
@[simp] theorem b2f64_zero (d : Nat) : b2f64 0 d = 0#64 := if_pos rfl

/-- A stored zero byte reads as `+0.0`. -/
theorem mux_f64_of_pay_zero {FR : FrameReg} {k : BitVec 5} (h : k.toNat < Config.NFIELDS)
    (hz : FR.pay[k.toNat] = 0x00#8) : (mux FR k).fld_f64 = 0#64 := by
  have hout : (mux FR k).fld_f64 = b2f64 FR.pay[k.toNat].toNat (fieldDivisor ⟨k.toNat, h⟩).value := by
    rw [mux_of_lt FR h]
    rfl
  rw [hout, hz]
  exact b2f64_zero _

/-- The fields with divisor 1, by payload offset (R97). -/
theorem fieldDivisor_eq_one : ∀ k : Fin 18,
    (k.val ≤ 5 ∨ k.val = 9 ∨ (11 ≤ k.val ∧ k.val ≤ 13)) → fieldDivisor k = .one := by
  decide

/-- The fields with divisor 100, by payload offset (R97). -/
theorem fieldDivisor_eq_hundred : ∀ k : Fin 18,
    ((6 ≤ k.val ∧ k.val ≤ 8) ∨ k.val = 10) → fieldDivisor k = .hundred := by
  decide

/-- The fields with divisor 10000, by payload offset (R97). -/
theorem fieldDivisor_eq_tenThousand : ∀ k : Fin 18,
    14 ≤ k.val → fieldDivisor k = .tenThousand := by
  decide

/-- Settles O16: the multiplexer shows the byte at the selected offset with the divisor that the decode
table has there. -/
theorem multiplexerPresentsSelectedField : Obligations.MultiplexerPresentsSelectedField := by
  refine fun h p => ⟨fun k hk => ?_, fun hsel => mux_of_not_lt h.FR hsel.not_gt⟩
  have hlt : p.sel.toNat < Config.NFIELDS := hk ▸ k.isLt
  obtain rfl : (⟨p.sel.toNat, hlt⟩ : Fin 18) = k := Fin.ext hk
  have hfld : (outputs h p).fld = fieldOut h.FR.pay[p.sel.toNat] (fieldDivisor ⟨p.sel.toNat, hlt⟩) :=
    mux_of_lt h.FR hlt
  rw [hfld]
  refine ⟨rfl, rfl, fun hd => ?_, fun hd => ?_, fun hd => ?_⟩
  · rw [fieldDivisor_eq_one _ hd]
    exact ⟨rfl, rfl, rfl⟩
  · rw [fieldDivisor_eq_hundred _ hd]
    exact ⟨rfl, rfl, rfl⟩
  · rw [fieldDivisor_eq_tenThousand _ hd]
    exact ⟨rfl, rfl, rfl⟩

/-! ## The field reads -/

/-- Settles O12: each is the read of its field, whose row of the decode table has the divisor 1. -/
theorem rawFieldReadsComplete : Obligations.RawFieldReadsComplete := fun s =>
  ⟨exec_fieldRead .accX s, exec_fieldRead .accY s, exec_fieldRead .accZ s, exec_fieldRead .gyrX s,
    exec_fieldRead .gyrY s, exec_fieldRead .gyrZ s, exec_fieldRead .calib s, exec_fieldRead .magX s,
    exec_fieldRead .magY s, exec_fieldRead .magZ s⟩

/-- Settles O13: each is the read of its field, whose row of the decode table has the divisor 100. -/
theorem hundredthFieldReadsComplete : Obligations.HundredthFieldReadsComplete := fun s =>
  ⟨exec_fieldRead .roll s, exec_fieldRead .pitch s, exec_fieldRead .yaw s, exec_fieldRead .temp s⟩

/-- Settles O14: each is the read of its field, whose row of the decode table has the divisor 10000. -/
theorem quaternionFieldReadsComplete : Obligations.QuaternionFieldReadsComplete := fun s =>
  ⟨exec_fieldRead .q0 s, exec_fieldRead .q1 s, exec_fieldRead .q2 s, exec_fieldRead .q3 s⟩

/-- Settles O15: each shows the outputs of a reserved select. -/
theorem reservedSelectsComplete : Obligations.ReservedSelectsComplete := fun _ =>
  ⟨fun _ => rfl, fun _ => rfl, fun _ => rfl⟩

/-! ## What changes the frame register -/

/-- No instruction but ACCEPT, RESET and FRAME writes the frame register or its flags (R123). -/
theorem exec_keeps_frameReg {i : Instr} {s t : State} (ha : i ≠ .accept) (hr : i ≠ .reset)
    (hf : ∀ start pay, i ≠ .frame start pay) (h : exec i s = .next t) :
    t.hw.FR = s.hw.FR ∧ t.hw.imu_valid = s.hw.imu_valid ∧ t.hw.imu_short = s.hw.imu_short := by
  cases i with
  | accept => exact absurd rfl ha
  | reset => exact absurd rfl hr
  | frame start pay => exact absurd rfl (hf start pay)
  | clear | rejHdr | rejFunc | rejStart | rejCount | rejCsum | push | idle
  | fieldAccX | fieldAccY | fieldAccZ | fieldGyrX | fieldGyrY | fieldGyrZ
  | fieldRoll | fieldPitch | fieldYaw | fieldCalib | fieldTemp
  | fieldMagX | fieldMagY | fieldMagZ | fieldQ0 | fieldQ1 | fieldQ2 | fieldQ3
  | selRsvd18 | selRsvd20 | selRsvd24 =>
    obtain rfl := Host.Outcome.next.inj h
    exact ⟨rfl, rfl, rfl⟩

/-- The field outputs are a function of the frame register and the select pins (R123). -/
theorem outputs_fld_congr {h g : Hw} {p q : Pins} (hFR : h.FR = g.FR) (hsel : p.sel = q.sel) :
    (outputs h p).fld = (outputs g q).fld := congrArg₂ mux hFR hsel

/-- Settles O18: what keeps the frame register keeps the field outputs. -/
theorem fieldOutputsChangeOnlyByAcceptAndReset :
    Obligations.FieldOutputsChangeOnlyByAcceptAndReset := by
  refine ⟨fun _ _ _ _ => outputs_fld_congr, fun i s t ha hr hf h => ?_⟩
  obtain ⟨hFR, hvalid, hshort⟩ := exec_keeps_frameReg ha hr hf h
  exact ⟨hFR, hvalid, hshort, fun _ => outputs_fld_congr hFR rfl⟩

/-- Settles O11: the loader stores zeros from the count on, and a stored zero reads as zero. -/
theorem shortFrameFieldsReadZero : Obligations.ShortFrameFieldsReadZero := by
  intro s _ hcount
  have hfill : ∀ k (hk : k < 18), (byteAt s.hw.W 3).toNat ≤ k → (loadFrame s.hw.W).pay[k] = 0x00#8 :=
    fun k hk hle => (loadFrame_pay s.hw.W k hk).trans (if_neg hle.not_gt)
  refine ⟨acceptFrame s, rfl, decide_eq_true hcount, fun k => hfill k k.isLt, fun p hle hlt => ?_⟩
  have hzero := hfill p.sel.toNat hlt hle
  exact ⟨(mux_raw (loadFrame s.hw.W) hlt).trans hzero, mux_f64_of_pay_zero hlt hzero⟩

/-- After a well-formed frame on an empty window the frame register holds the payload, filled up with
zeros, whatever the start byte (R84, R98, R99). -/
theorem feed_frameBytes_pay {start : Byte} {pay : List Byte} {s : State}
    (h : start.toNat + pay.length < 44) (hW : s.hw.W = []) :
    (feed (frameBytes start pay) s).hw.FR.pay = Vector.ofFn fun k : Fin 18 => pay.getD k.val 0x00#8 := by
  have hpay : pay.length < 256 := by omega
  rw [feed_frameBytes (wellFormed_frame_iff.2 h) hW, acceptFrame_hw]
  exact congrArg FrameReg.pay (loadFrame_frameBytes start hpay)

/-- Settles O23: the field outputs depend on the stored payload alone, which does not depend on the
start byte. -/
theorem framePayloadDecodesIndependentOfStart :
    Obligations.FramePayloadDecodesIndependentOfStart := by
  intro a b pay s ha hb hW
  have hpayA := feed_frameBytes_pay ha hW
  have hpayB := feed_frameBytes_pay hb hW
  refine ⟨feed (frameBytes a pay) s, feed (frameBytes b pay) s, rfl, rfl, fun p =>
    ⟨mux_congr (hpayA.trans hpayB.symm) p.sel, fun hlt => ?_⟩⟩
  refine (mux_raw _ hlt).trans ?_
  simp only [hpayA, Vector.getElem_ofFn]

end Sys2Proof.Machine
end

section
/-! The scaled value as a binary64 number: `b2f64` rounds `n / d` on the grid of its last place, and no
binary64 number is nearer (R103, log 9). -/

namespace Sys2Proof.Machine

/-! ## Rounding to nearest -/

theorem le_roundHalfEven {a n d : Nat} (hd : 0 < d) (h : a * d ≤ n) : a ≤ roundHalfEven n d := by
  have hfloor : a ≤ n / d := (Nat.le_div_iff_mul_le hd).2 h
  unfold roundHalfEven
  split_ifs <;> omega

theorem roundHalfEven_le {a n d : Nat} (hd : 0 < d) (h : n < a * d) : roundHalfEven n d ≤ a := by
  have hfloor : n / d < a := (Nat.div_lt_iff_lt_mul hd).2 h
  unfold roundHalfEven
  split_ifs <;> omega

@[simp] theorem roundHalfEven_one (n : Nat) : roundHalfEven n 1 = n := by
  simp [roundHalfEven, Nat.mod_one]

/-- Where `n / d` is no tie, the rounded integer is less than one half away. -/
theorem abs_roundHalfEven_sub_lt {n d : Nat} (hd : 0 < d) (htie : 2 * (n % d) ≠ d) :
    |(roundHalfEven n d : ℚ) - n / d| < 1 / 2 := by
  have hd' : (0 : ℚ) < d := by exact_mod_cast hd
  have hn : (n : ℚ) = d * (n / d : ℕ) + (n % d : ℕ) := by exact_mod_cast (Nat.div_add_mod n d).symm
  have hquot : (n : ℚ) / d = (n / d : ℕ) + (n % d : ℕ) / d := by
    rw [hn]
    field_simp
  have hmod : ((n % d : ℕ) : ℚ) < d := by exact_mod_cast Nat.mod_lt n hd
  have hpos : (0 : ℚ) ≤ (n % d : ℕ) / d := by positivity
  rw [hquot, abs_lt]
  unfold roundHalfEven
  obtain hlow | hhigh := htie.lt_or_gt
  · have hfrac : ((n % d : ℕ) : ℚ) / d < 1 / 2 := by
      rw [div_lt_div_iff₀ hd' two_pos]
      exact_mod_cast (by omega : n % d * 2 < 1 * d)
    rw [if_pos hlow]
    constructor <;> linarith
  · have hfrac : 1 / 2 < ((n % d : ℕ) : ℚ) / d := by
      rw [div_lt_div_iff₀ two_pos hd']
      exact_mod_cast (by omega : 1 * d < n % d * 2)
    have hone : ((n % d : ℕ) : ℚ) / d < 1 := (div_lt_one hd').2 hmod
    rw [if_neg hhigh.not_gt, if_pos hhigh]
    push_cast
    constructor <;> linarith

/-- A tie would need a divisor with one factor 2 more than the numerator. -/
theorem two_mul_mod_ne {n d : Nat} (hn : 16 ∣ n) (hd : ¬ 32 ∣ d) : 2 * (n % d) ≠ d := by
  intro htie
  have hsplit : 2 * n = d * (2 * (n / d) + 1) := by
    calc 2 * n = 2 * (d * (n / d) + n % d) := by rw [Nat.div_add_mod]
      _ = d * (2 * (n / d)) + 2 * (n % d) := by ring
      _ = d * (2 * (n / d) + 1) := by rw [htie]; ring
  have hdvd : 32 ∣ d * (2 * (n / d) + 1) := hsplit ▸ Nat.mul_dvd_mul_left 2 hn
  have hodd : Nat.Coprime 32 (2 * (n / d) + 1) :=
    Nat.Coprime.pow_left 5 (Nat.coprime_two_left.2 (odd_two_mul_add_one _))
  exact hd (hodd.dvd_of_dvd_mul_right hdvd)

/-! ## Patterns and their values -/

/-- The fields of a pattern with sign 0, put together and read back (R40). -/
theorem f64_fields {E F : Nat} (hE : E < 2048) (hF : F < 2 ^ 52) :
    (BitVec.ofNat 64 (E * 2 ^ 52 + F)).getLsbD 63 = false ∧
    f64Exp (BitVec.ofNat 64 (E * 2 ^ 52 + F)) = E ∧
    f64Frac (BitVec.ofNat 64 (E * 2 ^ 52 + F)) = F := by
  have hlt : E * 2 ^ 52 + F < 2 ^ 63 := by omega
  have hnat : (BitVec.ofNat 64 (E * 2 ^ 52 + F)).toNat = E * 2 ^ 52 + F := by
    rw [BitVec.toNat_ofNat]
    omega
  refine ⟨?_, ?_, ?_⟩
  · rw [BitVec.getLsbD, hnat]
    exact Nat.testBit_lt_two_pow hlt
  · rw [f64Exp, BitVec.extractLsb'_toNat, hnat, Nat.shiftRight_eq_div_pow]
    omega
  · rw [f64Frac, BitVec.extractLsb'_toNat, hnat, Nat.shiftRight_zero]
    omega

/-- The value of a positive normal pattern (R40). -/
theorem f64Value_of_fields {E F : Nat} (h1 : 1 ≤ E) (hE : E < 2048) (hF : F < 2 ^ 52) :
    f64Value (BitVec.ofNat 64 (E * 2 ^ 52 + F)) = ((2 ^ 52 + F : ℕ) : ℚ) * 2 ^ ((E : ℤ) - 1075) := by
  obtain ⟨hsign, hexp, hfrac⟩ := f64_fields hE hF
  have hne : E ≠ 0 := by omega
  rw [f64Value, hsign, hexp, hfrac, if_neg hne]
  simp

/-- Every value is a significand below `2 ^ 53`, with its sign, in units of some last place (R40). -/
theorem f64Value_eq (b : BitVec 64) :
    ∃ (M : ℤ) (E : ℕ), |M| < 2 ^ 53 ∧ f64Value b = M * 2 ^ ((E : ℤ) - 1075) := by
  have hfrac : f64Frac b < 2 ^ 52 := BitVec.isLt _
  obtain ⟨K, E, hK, hval⟩ : ∃ K E : ℕ, K < 2 ^ 53 ∧
      (if f64Exp b = 0 then (f64Frac b : ℚ) * 2 ^ (-1074 : ℤ)
       else ((2 ^ 52 + f64Frac b : ℕ) : ℚ) * 2 ^ ((f64Exp b : ℤ) - 1075)) =
        K * 2 ^ ((E : ℤ) - 1075) := by
    split_ifs
    · exact ⟨f64Frac b, 1, by omega, rfl⟩
    · exact ⟨2 ^ 52 + f64Frac b, f64Exp b, by omega, rfl⟩
  rw [f64Value, hval]
  split_ifs
  · exact ⟨-K, E, by rw [abs_neg, Nat.abs_cast]; exact_mod_cast hK, by push_cast; ring⟩
  · exact ⟨K, E, by rw [Nat.abs_cast]; exact_mod_cast hK, by push_cast; ring⟩

/-- In units of the last place of a biased exponent `e`, every value is an integer, or it lies below the
significands of `e`. -/
theorem f64Value_grid (b : BitVec 64) (e : ℕ) :
    (∃ k : ℤ, f64Value b = k * 2 ^ ((e : ℤ) - 1075)) ∨ f64Value b < 2 ^ 52 * 2 ^ ((e : ℤ) - 1075) := by
  obtain ⟨M, E, hM, hval⟩ := f64Value_eq b
  rw [hval]
  obtain hE | hE := le_or_gt e E
  · obtain ⟨j, rfl⟩ := Nat.exists_eq_add_of_le hE
    refine .inl ⟨M * 2 ^ j, ?_⟩
    have hpow : ((e + j : ℕ) : ℤ) - 1075 = j + (e - 1075) := by push_cast; ring
    rw [hpow, zpow_add₀ two_ne_zero, zpow_natCast]
    push_cast
    ring
  · refine .inr ?_
    have hM' : (M : ℚ) < 2 ^ 53 := by exact_mod_cast (abs_lt.1 hM).2
    have hpow : (2 : ℚ) ^ ((E : ℤ) - 1075) ≤ 2 ^ ((e : ℤ) - 1 - 1075) :=
      zpow_le_zpow_right₀ one_le_two (by omega)
    calc (M : ℚ) * 2 ^ ((E : ℤ) - 1075) < 2 ^ 53 * 2 ^ ((E : ℤ) - 1075) :=
          mul_lt_mul_of_pos_right hM' (by positivity)
      _ ≤ 2 ^ 53 * 2 ^ ((e : ℤ) - 1 - 1075) := by gcongr
      _ = 2 ^ 52 * 2 ^ ((e : ℤ) - 1075) := by
          rw [sub_right_comm, zpow_sub_one₀ two_ne_zero]
          ring

/-! ## The value of `b2f64` -/

/-- The unit of the last place of `n / d`. -/
def ulp (n d : Nat) : ℚ := 2 ^ ((biasedExp n d : ℤ) - 1075)

/-- The numerator of `n / d` in units of its last place, over the same `d`. -/
def scaled (n d : Nat) : Nat := n * 2 ^ (1075 - biasedExp n d)

theorem ulp_pos (n d : Nat) : 0 < ulp n d := by
  unfold ulp
  positivity

section Range

/-! A byte over a divisor of at most 14 bits, which covers those of R97. -/

variable {n d : Nat} (hn : 0 < n) (hn' : n < 256) (hd : 0 < d) (hd' : d < 2 ^ 14)

include hn hn' hd hd'

/-- The scaled values lie well inside the normal range. -/
theorem biasedExp_bounds : 1009 ≤ biasedExp n d ∧ biasedExp n d ≤ 1030 := by
  have ha : n.log2 < 8 := (Nat.log2_lt hn.ne').2 hn'
  have hc : d.log2 < 14 := (Nat.log2_lt hd.ne').2 hd'
  unfold biasedExp
  split_ifs <;> omega

/-- `n / d` is its numerator in units of the last place, scaled back. -/
theorem scaled_div_mul_ulp : (scaled n d : ℚ) / d * ulp n d = n / d := by
  have he : biasedExp n d ≤ 1075 := (biasedExp_bounds hn hn' hd hd').2.trans (by decide)
  have hpow : (2 : ℚ) ^ (1075 - biasedExp n d) * ulp n d = 1 := by
    rw [ulp, ← zpow_natCast, ← zpow_add₀ two_ne_zero, Nat.cast_sub he]
    simp
  rw [scaled]
  push_cast
  linear_combination (n / d : ℚ) * hpow

/-- The scale of the last place against the leading bits of `n` and `d`: the factor `f` is 2 where the
leading bits alone would put `n / d` one binary place too high, else 1. -/
theorem exists_scale_factor : ∃ f : ℕ,
    2 ^ (1075 - biasedExp n d) * 2 ^ n.log2 = 2 ^ 52 * (2 ^ d.log2 * f) ∧
    d * 2 ^ n.log2 ≤ n * 2 ^ d.log2 * f ∧ n * 2 ^ d.log2 * f < 2 * (d * 2 ^ n.log2) := by
  have ha : n.log2 < 8 := (Nat.log2_lt hn.ne').2 hn'
  have hc : d.log2 < 14 := (Nat.log2_lt hd.ne').2 hd'
  have hP : 2 ^ n.log2 ≤ n := Nat.log2_self_le hn.ne'
  have hP' : n < 2 ^ n.log2 * 2 := Nat.lt_log2_self
  have hQ : 2 ^ d.log2 ≤ d := Nat.log2_self_le hd.ne'
  have hQ' : d < 2 ^ d.log2 * 2 := Nat.lt_log2_self
  unfold biasedExp
  split_ifs with hcmp
  · have hexp : 1075 - (1023 + n.log2 - d.log2 - 1) + n.log2 = 52 + (d.log2 + 1) := by omega
    refine ⟨2, by rw [← pow_add, hexp, pow_add, pow_succ 2 d.log2], ?_, by omega⟩
    calc d * 2 ^ n.log2 ≤ 2 ^ d.log2 * 2 * n := Nat.mul_le_mul hQ'.le hP
      _ = n * 2 ^ d.log2 * 2 := by ring
  · have hexp : 1075 - (1023 + n.log2 - d.log2 - 0) + n.log2 = 52 + d.log2 := by omega
    refine ⟨1, by rw [← pow_add, hexp, pow_add, mul_one], by omega, ?_⟩
    calc n * 2 ^ d.log2 * 1 < 2 ^ n.log2 * 2 * 2 ^ d.log2 := by
          rw [mul_one]
          exact Nat.mul_lt_mul_of_pos_right hP' (Nat.two_pow_pos _)
      _ ≤ 2 ^ n.log2 * 2 * d := Nat.mul_le_mul_left _ hQ
      _ = 2 * (d * 2 ^ n.log2) := by ring

/-- The biased exponent is exact: in units of the last place, `n / d` has 53 bits before the point. -/
theorem scaled_bounds : 2 ^ 52 * d ≤ scaled n d ∧ scaled n d < 2 ^ 53 * d := by
  obtain ⟨f, hscale, hlow, hhigh⟩ := exists_scale_factor hn hn' hd hd'
  have hscaled : scaled n d * 2 ^ n.log2 = 2 ^ 52 * (n * 2 ^ d.log2 * f) := by
    rw [scaled, mul_assoc, hscale]
    ring
  have hpos : 0 < 2 ^ n.log2 := Nat.two_pow_pos _
  constructor
  · refine Nat.le_of_mul_le_mul_right ?_ hpos
    rw [hscaled, mul_assoc]
    exact Nat.mul_le_mul_left _ hlow
  · refine Nat.lt_of_mul_lt_mul_right (a := 2 ^ n.log2) ?_
    calc scaled n d * 2 ^ n.log2 = 2 ^ 52 * (n * 2 ^ d.log2 * f) := hscaled
      _ < 2 ^ 52 * (2 * (d * 2 ^ n.log2)) := Nat.mul_lt_mul_of_pos_left hhigh (by decide)
      _ = 2 ^ 53 * d * 2 ^ n.log2 := by ring

/-- The significand of a scaled value is its rounded numerator, within 53 bits or just past them. -/
theorem significand_eq : significand n d (biasedExp n d) = roundHalfEven (scaled n d) d :=
  if_pos ((biasedExp_bounds hn hn' hd hd').2.trans (by decide))

theorem rounded_bounds :
    2 ^ 52 ≤ roundHalfEven (scaled n d) d ∧ roundHalfEven (scaled n d) d ≤ 2 ^ 53 := by
  obtain ⟨hlow, hhigh⟩ := scaled_bounds hn hn' hd hd'
  exact ⟨le_roundHalfEven hd hlow, roundHalfEven_le hd hhigh⟩

/-- The pattern of a scaled value is positive and normal, and stands for the rounded numerator in units
of the last place, whether or not the rounding carries. -/
theorem b2f64_fields : ∃ E F : ℕ, 1 ≤ E ∧ E ≤ 2046 ∧ F < 2 ^ 52 ∧
    b2f64 n d = BitVec.ofNat 64 (E * 2 ^ 52 + F) ∧
    f64Value (b2f64 n d) = roundHalfEven (scaled n d) d * ulp n d := by
  obtain ⟨hlow, hhigh⟩ := biasedExp_bounds hn hn' hd hd'
  obtain ⟨hround, hround'⟩ := rounded_bounds hn hn' hd hd'
  have hpat : b2f64 n d =
      BitVec.ofNat 64 (biasedExp n d * 2 ^ 52 + roundHalfEven (scaled n d) d - 2 ^ 52) := by
    rw [b2f64, if_neg hn.ne', significand_eq hn hn' hd hd']
  generalize roundHalfEven (scaled n d) d = m at *
  obtain hm | rfl := hround'.lt_or_eq
  · have hfields : biasedExp n d * 2 ^ 52 + m - 2 ^ 52 = biasedExp n d * 2 ^ 52 + (m - 2 ^ 52) := by
      omega
    have hF : m - 2 ^ 52 < 2 ^ 52 := by omega
    rw [hfields] at hpat
    refine ⟨biasedExp n d, m - 2 ^ 52, by omega, by omega, hF, hpat, ?_⟩
    rw [hpat, f64Value_of_fields (by omega) (by omega) hF, Nat.add_sub_cancel' hround]
    rfl
  · have hfields : biasedExp n d * 2 ^ 52 + 2 ^ 53 - 2 ^ 52 = (biasedExp n d + 1) * 2 ^ 52 + 0 := by
      omega
    rw [hfields] at hpat
    refine ⟨biasedExp n d + 1, 0, by omega, by omega, by decide, hpat, ?_⟩
    rw [hpat, f64Value_of_fields (by omega) (by omega) (by decide), ulp, Nat.cast_succ,
      add_sub_right_comm, zpow_add_one₀ two_ne_zero]
    norm_num
    ring

/-- The rounded numerator is less than one half of the last place away: no scaled value is a tie. -/
theorem abs_rounded_sub_lt (htwo : ¬ 32 ∣ d) :
    |(roundHalfEven (scaled n d) d : ℚ) - scaled n d / d| < 1 / 2 := by
  have hexp : 4 ≤ 1075 - biasedExp n d :=
    (by decide : 4 ≤ 1075 - 1030).trans (Nat.sub_le_sub_left (biasedExp_bounds hn hn' hd hd').2 1075)
  exact abs_roundHalfEven_sub_lt hd
    (two_mul_mod_ne ((pow_dvd_pow 2 hexp).trans (Nat.dvd_mul_left _ _)) htwo)

end Range

/-! ## Nearest -/

/-- The rounding `m` of `y`, where it is no tie, is strictly nearer than any other value `v` of the grid:
the integers, and whatever lies below the significands. -/
theorem nearest_on_grid {m : ℕ} {y v : ℚ} (hy : 2 ^ 52 ≤ y) (hm : 2 ^ 52 ≤ m)
    (hround : |(m : ℚ) - y| < 1 / 2) (hv : (∃ k : ℤ, v = k) ∨ v < 2 ^ 52) (hne : v ≠ m) :
    |(m : ℚ) - y| < |v - y| := by
  obtain ⟨hlow, hhigh⟩ := abs_lt.1 hround
  obtain ⟨k, rfl⟩ | hlt := hv
  · have hkm : k ≠ m := by exact_mod_cast hne
    have hdist : (1 : ℚ) ≤ |(k : ℚ) - m| := by
      exact_mod_cast Int.one_le_abs (sub_ne_zero.2 hkm)
    have htri := abs_sub_le (k : ℚ) y m
    rw [abs_sub_comm y] at htri
    linarith
  · refine lt_of_lt_of_le ?_ (neg_le_abs (v - y))
    obtain rfl | hstep := hm.eq_or_lt
    · rw [abs_lt]
      push_cast
      constructor <;> linarith
    · have hstep' : (2 : ℚ) ^ 52 + 1 ≤ m := by exact_mod_cast hstep
      linarith

theorem divisor_range (d : Divisor) : 0 < d.value ∧ d.value < 2 ^ 14 ∧ ¬ 32 ∣ d.value := by
  cases d <;> decide

theorem f64Value_zero : f64Value 0#64 = 0 := by
  have hexp : f64Exp 0#64 = 0 := by decide
  have hfrac : f64Frac 0#64 = 0 := by decide
  rw [f64Value, hexp, hfrac]
  simp

/-- No binary64 value but that of `b2f64` is as near to `n / d`. -/
theorem b2f64_nearest {n d : Nat} (hn : 0 < n) (hn' : n < 256) (hd : 0 < d) (hd' : d < 2 ^ 14)
    (htwo : ¬ 32 ∣ d) {b : BitVec 64} (hne : f64Value b ≠ f64Value (b2f64 n d)) :
    |f64Value (b2f64 n d) - (n : ℚ) / d| < |f64Value b - (n : ℚ) / d| := by
  obtain ⟨-, -, -, -, -, -, hval⟩ := b2f64_fields hn hn' hd hd'
  have hu := ulp_pos n d
  have hscale : ∀ x : ℚ, |x * ulp n d - n / d| = |x - scaled n d / d| * ulp n d := fun x => by
    rw [← scaled_div_mul_ulp hn hn' hd hd', ← sub_mul, abs_mul, abs_of_pos hu]
  have hd₀ : (0 : ℚ) < d := by exact_mod_cast hd
  have hy : (2 : ℚ) ^ 52 ≤ scaled n d / d := by
    rw [le_div_iff₀ hd₀]
    exact_mod_cast (scaled_bounds hn hn' hd hd').1
  obtain ⟨v, hv⟩ : ∃ v, f64Value b = v * ulp n d := ⟨_, (div_mul_cancel₀ _ hu.ne').symm⟩
  rw [hval, hv] at hne ⊢
  have hgrid : (∃ k : ℤ, v = k) ∨ v < 2 ^ 52 :=
    (f64Value_grid b (biasedExp n d)).imp
      (fun ⟨k, hk⟩ => ⟨k, mul_right_cancel₀ hu.ne' (hv.symm.trans hk)⟩)
      (fun hlt => lt_of_mul_lt_mul_right (hv.symm.trans_lt hlt) hu.le)
  rw [hscale, hscale]
  exact mul_lt_mul_of_pos_right
    (nearest_on_grid hy (rounded_bounds hn hn' hd hd').1 (abs_rounded_sub_lt hn hn' hd hd' htwo) hgrid
      fun h => hne (h ▸ rfl)) hu

/-- Settles O19: raw zero is exact, and every other scaled value is rounded on its grid without a tie. -/
theorem scaledValueIsNearestBinary64 : Obligations.ScaledValueIsNearestBinary64 := by
  intro raw d b _
  obtain ⟨hd, hd', htwo⟩ := divisor_range d
  obtain heq | hne := eq_or_ne (f64Value b) (f64Value (b2f64 raw.toNat d.value))
  · exact ⟨heq ▸ le_rfl, fun _ => heq⟩
  · suffices hlt : |f64Value (b2f64 raw.toNat d.value) - (raw.toNat : ℚ) / (d.value : ℚ)|
        < |f64Value b - (raw.toNat : ℚ) / (d.value : ℚ)| from
      ⟨hlt.le, fun h => absurd h hlt.ne⟩
    obtain hzero | hpos := raw.toNat.eq_zero_or_pos
    · rw [hzero, b2f64_zero, f64Value_zero] at hne ⊢
      simpa using hne
    · exact b2f64_nearest hpos raw.isLt hd hd' htwo hne

/-- Settles O20: raw zero is the pattern zero, every other scaled value has the fields of a positive normal
number, and for divisor 1 nothing is rounded. -/
theorem scaledValueIsZeroOrPositiveNormal : Obligations.ScaledValueIsZeroOrPositiveNormal := by
  intro raw d
  obtain ⟨hd, hd', -⟩ := divisor_range d
  obtain hzero | hpos := raw.toNat.eq_zero_or_pos
  · have hraw : raw = 0x00#8 := BitVec.eq_of_toNat_eq hzero
    rw [hzero, b2f64_zero, b2f64_zero, f64Value_zero]
    exact ⟨rfl, fun _ => rfl, fun hne => absurd hraw hne, Nat.cast_zero.symm⟩
  · obtain ⟨E, F, hE, hE', hF, hpat, -⟩ := b2f64_fields hpos raw.isLt hd hd'
    obtain ⟨hsign, hexp, -⟩ := f64_fields (Nat.lt_succ_of_le (hE'.trans (by decide))) hF
    rw [hpat, hexp]
    refine ⟨hsign, fun hraw => absurd (congrArg BitVec.toNat hraw) hpos.ne', fun _ => ⟨hE, hE'⟩, ?_⟩
    obtain ⟨-, -, -, -, -, -, hval⟩ := b2f64_fields hpos raw.isLt one_pos (by decide)
    have hexact := scaled_div_mul_ulp hpos raw.isLt one_pos (by decide)
    rw [hval, roundHalfEven_one]
    simpa using hexact

end Sys2Proof.Machine
end

section
/-! What no step can escape and no step depends on: every step completes (R125), the controls override
all else (R130, R139, R85), and the link and select pins have no effect on a cycle (R128, R44). -/

namespace Sys2Proof.Machine

/-- Settles O36: a step executes the instruction selected, which answers a next state, or takes stray
bytes. -/
theorem everyStepCompletes : Obligations.EveryStepCompletes := by
  intro s
  unfold step
  cases selected (fetch s).1 (fetch s).2.hw.W with
  | error e => exact ⟨_, rfl⟩
  | ok i =>
    obtain ⟨t, ht, -⟩ := exec_next_cases i (fetch s).2
    exact ⟨t, ht⟩

/-- A driven cycle with `rst` is RESET. -/
theorem step_of_rst {s : State} {p : Pins} {ds : List Drive} (h : s.env.drive = .cycle p :: ds)
    (hr : p.rst = true) : step s = .next (resetAll (s.setDrive ds)) := by
  have hsel : decodeCw (classify s.hw.W) p.cw = .reset := (decodeCw_eq_reset_iff _ p).2 hr
  exact step_of_selected h (congrArg Except.ok hsel)

/-- A driven cycle with `sync_clr` alone is CLEAR. -/
theorem step_of_clr {s : State} {p : Pins} {ds : List Drive} (h : s.env.drive = .cycle p :: ds)
    (hr : p.rst = false) (hc : p.sync_clr = true) :
    step s = .next (emptyWindow (s.setDrive ds)) :=
  step_of_selected h (congrArg Except.ok (decodeCw_clear hr hc _))

/-- Settles O5: the controls select RESET and CLEAR under every verdict. -/
theorem resetAndClearOverrideAll : Obligations.ResetAndClearOverrideAll := fun s _ ds h =>
  ⟨fun hr => ⟨_, step_of_rst h hr, resetAll_hw (s.setDrive ds), resetAll_pos (s.setDrive ds)⟩,
    fun hr hc => ⟨_, step_of_clr h hr hc, emptyWindow_hw (s.setDrive ds)⟩⟩

/-- The control word is made of the controls and the byte offered; `sel` and `link_down_i` are no part
of it (R56). -/
theorem cw_congr {p q : Pins} (hr : p.rst = q.rst) (hc : p.sync_clr = q.sync_clr)
    (hv : p.in_valid = q.in_valid) (hb : p.in_byte = q.in_byte) : p.cw = q.cw := by
  simp only [Pins.cw, hr, hc, hv, hb]

/-- Settles O43: a cycle's step depends on its pins through the control word alone. -/
theorem linkAndSelectHaveNoEffectOnState : Obligations.LinkAndSelectHaveNoEffectOnState := by
  refine ⟨fun _ _ => rfl, ?_⟩
  rintro s u p q ds h rfl hr hc hv hb
  have hsel : selected (.cycle p) s.hw.W = .ok (decodeCw (classify s.hw.W) q.cw) := by
    rw [selected, cw_congr hr hc hv hb]
  calc step s = exec (decodeCw (classify s.hw.W) q.cw) (s.setDrive ds) := step_of_selected h hsel
    _ = step (s.setDrive (.cycle q :: ds)) :=
      (step_of_selected (s := s.setDrive (.cycle q :: ds)) rfl rfl).symm

end Sys2Proof.Machine
end

section
/-! RESET: the cycle that selects it and the state it leaves (R139). -/

namespace Sys2Proof.Machine

/-- No byte is taken in a cycle with `rst` (R29). -/
theorem inReady_of_rst (h : Hw) {p : Pins} (hr : p.rst = true) : inReady h p = false := by
  simp [inReady, hr]

/-- Settles O2: `rst` selects RESET under every verdict, and RESET is `resetAll`. -/
theorem resetCompletes : Obligations.ResetCompletes :=
  ⟨fun s p hr => ⟨(decodeCw_eq_reset_iff _ p).2 hr, inReady_of_rst s.hw hr⟩, fun _ => rfl⟩

end Sys2Proof.Machine
end
